-- ==== Sys2Proof/Word.lean ====
section
/-! DEFINITION. The bit vectors of the interface: R9 and R10 (spec/00_scope.md), R43 (spec/30_encoding.md).
Bit 0 is the least significant bit everywhere. -/

namespace Sys2Proof

/-- An operand on `in_v` or a result on `out_r`: 32 bits (R24, R46, R47). -/
abbrev Word := BitVec 32

/-- Eight bits: one table entry (R30), or one byte of a laid-out request word (log 11). -/
abbrev Byte := BitVec 8

/-- A strategy code `STRAT` (R20, R49). -/
abbrev StratCode := BitVec 3

/-- A request word `{STRAT[2:0], v[31:0]}` (R43). -/
abbrev Request := BitVec 35

end Sys2Proof
end

