-- ==== Sys2Proof/Machine/Operands.lean ====
section
/-! DEFINITION. The one operand form and the one result form (spec/30_encoding.md §2). -/

namespace Sys2Proof.Machine

/-- The operand as the strategies read it: an unsigned integer, not extended, scaled or shifted (R46). -/
def operandValue (v : Word) : Nat := v.toNat

/-- A result on `out_r`: 32-bit two's complement, `r mod 2^32` (R47). -/
def encodeResult (r : Int) : Word := BitVec.ofInt 32 r

end Sys2Proof.Machine
end

