-- ==== Sys2Proof/Syntax.lean ====
section
/-! DEFINITION. The operations of the opcode table (spec/opcode_table.json; R49, R54). -/

namespace Sys2Proof

/-- One operation `EST.<S> v` (R14): a strategy and its 32-bit operand. R46 gives the one operand form. -/
inductive Instr where
  /-- `EST.REF v`, the natural-logarithm reference (R67). -/
  | estRef (v : Word)
  /-- `EST.TBB v`, the lookup table with a byte-granularity decision tree (R73). -/
  | estTbb (v : Word)
  /-- `EST.TUB v`, the lookup table with a uniform chain of tests (R75). -/
  | estTub (v : Word)
  /-- `EST.BMH v`, the five-mask bit scan for the highest set bit (R76). -/
  | estBmh (v : Word)
  /-- `EST.BMC v`, the comparison cascade (R77). -/
  | estBmc (v : Word)
  /-- `EST.DEC v`, the decimal-threshold ladder (R79). -/
  | estDec (v : Word)
deriving DecidableEq, Repr

end Sys2Proof
end

