-- ==== Sys2Proof/WellFormed.lean ====
section
/-! DEFINITION. What the spec refuses before an instance exists. Every 32-bit operand is legal for every strategy
(R46, R52), so every term of `Instr` is well formed; the one check is on the build parameter `STRAT` (R51). -/

namespace Sys2Proof

/-- `STRAT` values 0 to 5 are legal; 6 and 7 are reserved and an instance cannot be built with them (R20, R51). -/
def legalStrat (s : StratCode) : Bool := decide (s.toNat ≤ 5)

end Sys2Proof
end

