-- ==== Sys2Proof/Decode.lean ====
section
/-! DEFINITION. Decoding and encoding of request words (spec/30_encoding.md, spec/opcode_table.json).
The decoder is driven by the rows of the opcode table (R50); the encoder is written from the code list of R49. -/

namespace Sys2Proof

/-- Why a decoder answers no operation. -/
inductive DecodeError where
  /-- The strategy code is 6 or 7 (R51). -/
  | reservedStrat
  /-- Fewer than the five bytes a laid-out request word takes (log 11). -/
  | truncated
  /-- A bit above bit 34 is set: every request word is 35 bits (R45, log 11). -/
  | notARequestWord
deriving DecidableEq, Repr

/-- `{STRAT, v}` (R43). -/
def requestWord (s : StratCode) (v : Word) : Request := s ++ v

/-- `w[34:32]` (R50, step 1). -/
def stratField (w : Request) : StratCode := w.extractLsb' 32 3

/-- `w[31:0]` (R50, step 2). -/
def operandField (w : Request) : Word := w.extractLsb' 0 32

/-- A row of spec/opcode_table.json: a word `w` belongs to it when `w & mask = pattern` (R50). -/
structure OpcodeRow where
  mnemonic : String
  pattern  : Request
  mask     : Request
  make     : Word → Instr

/-- The six rows of spec/opcode_table.json, their `match` and `mask` as the table writes them. -/
def opcodeTable : List OpcodeRow :=
  [ ⟨"EST.REF", 0x000000000, 0x700000000, .estRef⟩,
    ⟨"EST.TBB", 0x100000000, 0x700000000, .estTbb⟩,
    ⟨"EST.TUB", 0x200000000, 0x700000000, .estTub⟩,
    ⟨"EST.BMH", 0x300000000, 0x700000000, .estBmh⟩,
    ⟨"EST.BMC", 0x400000000, 0x700000000, .estBmc⟩,
    ⟨"EST.DEC", 0x500000000, 0x700000000, .estDec⟩ ]

/-- The operation of a request word (R50); a word of no row has a reserved strategy code (R51). -/
def decodeRequest (w : Request) : Except DecodeError Instr :=
  match opcodeTable.find? fun row => w &&& row.mask == row.pattern with
  | some row => .ok (row.make (operandField w))
  | none => .error .reservedStrat

/-- The strategy code of an operation (R49). -/
def Instr.strat : Instr → StratCode
  | .estRef _ => 0b000
  | .estTbb _ => 0b001
  | .estTub _ => 0b010
  | .estBmh _ => 0b011
  | .estBmc _ => 0b100
  | .estDec _ => 0b101

/-- The operand of an operation (R46). -/
def Instr.operand : Instr → Word
  | .estRef v => v
  | .estTbb v => v
  | .estTub v => v
  | .estBmh v => v
  | .estBmc v => v
  | .estDec v => v

/-- The request word of an operation (R43). -/
def encode (i : Instr) : Request := requestWord i.strat i.operand

/-! The layout of a request word as bytes. The unit has no byte order (R33) and no request word is ever stored; bytes
exist here only for the host's interface: five bytes, least significant first, the five bits above bit 34 zero.
DESIGN CHOICE (log 11). -/

/-- The `n` least significant bytes of a number, least significant first. -/
def bytesOf : Nat → Nat → List Byte
  | 0, _ => []
  | n + 1, w => BitVec.ofNat 8 w :: bytesOf n (w / 256)

/-- The operation a list of bytes begins with, and the bytes after it. -/
def decode : List Byte → Except DecodeError (Instr × List Byte)
  | b0 :: b1 :: b2 :: b3 :: b4 :: rest =>
    if 8 ≤ b4.toNat then .error .notARequestWord
    else (decodeRequest (b4.setWidth 3 ++ (b3 ++ (b2 ++ (b1 ++ b0))))).map fun i => (i, rest)
  | _ => .error .truncated

/-- An operation's request word laid out as bytes. -/
def encodeBytes (i : Instr) : List Byte := bytesOf 5 (encode i).toNat

/-- The operation of a word whose bits are numbered as spec/opcode_table.json numbers them, laid out in whole bytes:
at least five, and as many as `nbits` needs. A bit set above bit 34 makes it no request word (R45). -/
def decodeTableWord (nbits w : Nat) : Option Instr :=
  match decode (bytesOf (max 5 ((nbits + 7) / 8)) w) with
  | .ok (i, rest) => if rest.all (· == 0) then some i else none
  | .error _ => none

end Sys2Proof
end

