-- ==== Sys2Proof/Config.lean ====
section
/-! DEFINITION. What the builder of an instance fixes, and the free values.
The parameters `STRAT` and `LATENCY` of R9 (spec/00_scope.md) are open: a state carries its own instance's values, so
that a statement over every state is one over every build. Only the build that `State.reset` stands for is named here. -/

namespace Sys2Proof.Config

/-- `DRAW_i32` of R12 (spec/00_scope.md): a family of 32-bit values of which nothing is known. The machine reads
`draw 0`, `draw 1`, … and never the same one twice in a run, so each use is a fresh value (R27, R70).
DESIGN CHOICE (log 6). -/
opaque draw : Nat → Word

/-- The `STRAT` of the instance `State.reset` stands for. DESIGN CHOICE (log 5). -/
def resetStrat : StratCode := 0

/-- The `LATENCY` of the instance `State.reset` stands for: combinational. DESIGN CHOICE (log 5). -/
def resetLatency : Nat := 0

end Sys2Proof.Config
end

