-- ==== Sys2Proof/Machine/State.lean ====
section
/-! DEFINITION. The state of the unit and the instance it belongs to (spec/10_state.md), plain data, and the reasons a
step can stop. -/

namespace Sys2Proof.Machine

/-- The input signals in one cycle (R24). `rst` exists only when `LATENCY > 0`; an instance with `LATENCY = 0` never
looks at it (R96). -/
structure Inputs where
  rst     : Bool
  inValid : Bool
  inV     : Word
deriving DecidableEq, Repr

/-- A cycle in which the requester presents nothing (R95). The value on `in_v` is then never read. -/
def Inputs.idle : Inputs := ⟨false, false, 0⟩

/-- The output signals in one cycle: `out_valid` and `out_r` (R24). -/
structure Outputs where
  valid : Bool
  r     : Word
deriving DecidableEq, Repr

/-- An operation accepted and not yet delivered (R28): its operand, and the encoded result of it (R28 lets an operation
be held as "its operand, or any encoding of it"; log 8). The cycle it is due is its place in `UnitState.inFlight`. -/
structure InFlight where
  operand : Word
  result  : Word
deriving DecidableEq, Repr

/-- The state of the unit between two cycles: what a cycle can change. `STRAT` is no part of it: it is a parameter of the
step relation on this type, `stepUnit` (R21). -/
structure UnitState where
  /-- The values the requester presents on the input signals in the coming cycles, the next cycle first (R24, R25).
  When the list is empty the requester presents nothing (log 4). -/
  inputs    : List Inputs
  /-- The in-flight operations by the cycle they are due (R28): slot `k` holds the operation that is due `k` cycles
  after the coming one, if there is one. There are `LATENCY` slots (log 2). -/
  inFlight  : List (Option InFlight)
  /-- The output signals of the cycle just executed (R26, R27; log 3). -/
  out       : Outputs
  /-- The model's own: how many free values have been used (log 6). -/
  drawCount : Nat
deriving DecidableEq, Repr

/-- An instance: the unit's state, with the parameter `STRAT` the instance was built with (R20, R22). The host's interface
gives a step one argument, so the parameter stands beside the state it is to be applied to (log 1). -/
structure State extends UnitState where
  /-- `STRAT`, fixed when the instance is built (R20). -/
  strat : StratCode
deriving DecidableEq, Repr

/-- The instance whose unit is in a given state and whose `STRAT` is given. -/
def UnitState.builtWith (u : UnitState) (strat : StratCode) : State := { toUnitState := u, strat := strat }

/-- `LATENCY` (R9), the number of cycles from acceptance to delivery: the unit has one slot for each (R28; log 2). -/
def UnitState.latency (u : UnitState) : Nat := u.inFlight.length

/-- "The unit raises no synchronous exception, for any strategy and any operand" (R82), and it has no trap (R86): there
is no fault to raise, so this type has no constructor. Safe: nothing can be claimed of a fault. -/
inductive Fault where
deriving DecidableEq, Repr

/-- The reasons a step has no next state. -/
inductive Refusal where
  /-- Raised by `exec` for an operation without a meaning; no arm raises it. Safe. -/
  | notModelled (mnemonic : String)
  /-- Raised by `step` when the instance's `STRAT` is 6 or 7: "a model refuses the configuration" (R51, R83; log 13).
  Safe: no such instance can be built. -/
  | reservedStrat
  /-- Raised by `Platform.stepAt` when the platform has no instance of that number (log 16). Safe. -/
  | noSuchInstance
deriving DecidableEq, Repr

/-- An instance built with a strategy code and a latency, right after reset (R29): nothing in flight, `out_valid` 0,
`out_r` unspecified (the free value `draw 0`; log 7), and nothing presented yet (log 4). -/
def State.built (strat : StratCode) (latency : Nat) : State :=
  { inputs    := []
    inFlight  := List.replicate latency none
    out       := ⟨false, Config.draw 0⟩
    drawCount := 1
    strat     := strat }

/-- The machine right after reset (R29), of the build Config names (log 5). -/
def State.reset : State := State.built Config.resetStrat Config.resetLatency

end Sys2Proof.Machine
end

