-- ==== Sys2Proof/Machine/Flags.lean ====
section
/-! DEFINITION. The unit has no flags, condition codes, predicates or status bits, and no operation writes one (R18).
The one bit it puts out beside the result is `out_valid` (R24). -/

namespace Sys2Proof.Machine

/-- `out_valid`: 1 in a cycle exactly when an accepted operation is due in it (R26). -/
def outValid (due : Option InFlight) : Bool := due.isSome

end Sys2Proof.Machine
end

