-- ==== Sys2Proof/Machine/Ops.lean ====
section
/-! DEFINITION. The operations every strategy shares: the clock cycle with its delivery and acceptance (spec/10_state.md
§4, §5), reset (spec/70_reset_and_hazards.md §1), the free values, and the ladder of comparators.

TAKING AN EXCEPTION AND RETURNING FROM ONE do not exist on this unit: no exception (R82), no interrupt (R84), no trap
(R86) and no trap return (R87). -/

namespace Sys2Proof.Machine

/-- The next free value (`DRAW_i32`, R12), and the state after it is used (log 6). -/
def UnitState.draw (u : UnitState) : Word × UnitState :=
  (Config.draw u.drawCount, { u with drawCount := u.drawCount + 1 })

/-- The output signals of a cycle (R26): the result of the operation due in it; when none is due, `out_valid` is 0 and
`out_r` is a fresh free value (R27). -/
def present (due : Option InFlight) (u : UnitState) : UnitState :=
  match due with
  | some op => { u with out := ⟨outValid due, op.result⟩ }
  | none => { u.draw.2 with out := ⟨outValid due, u.draw.1⟩ }

/-- One cycle and the edge that ends it (R25, R26), in which `accepted` is the operation accepted, if any. The accepted
operation takes the place `LATENCY` cycles on; with `LATENCY = 0` that is this very cycle. -/
def clockCycle (accepted : Option InFlight) (u : UnitState) : UnitState :=
  let slots := u.inFlight ++ [accepted]
  present (slots.headD none) { u with inFlight := slots.tail }

/-- The cycle in which an instance accepts operand `v`, whose encoded result is `r` (R25, R54). -/
def acceptOperation (v r : Word) (s : State) : Host.Outcome State Fault Refusal :=
  .next ((clockCycle (some ⟨v, r⟩) s.toUnitState).builtWith s.strat)

/-- A cycle in which no operand is accepted (R25, R95). -/
def idleCycle (u : UnitState) : UnitState := clockCycle none u

/-- A cycle that ends at an edge with `rst = 1` (R96): its outputs are those due in it, the operand presented is not
accepted, and every operation still in flight is discarded. -/
def resetCycle (u : UnitState) : UnitState :=
  let t := idleCycle u
  { t with inFlight := List.replicate t.inFlight.length none }

/-- The input signals in the coming cycle (R24); with nothing left in the list the requester presents nothing (log 4). -/
def UnitState.currentInputs (u : UnitState) : Inputs := u.inputs.headD Inputs.idle

/-- The state with the coming cycle's input signals taken. -/
def UnitState.advanceInputs (u : UnitState) : UnitState := { u with inputs := u.inputs.tail }

/-- The request word of the coming cycle: the parameter `STRAT` and the value on `in_v` (R43). -/
def UnitState.request (strat : StratCode) (u : UnitState) : Request := requestWord strat u.currentInputs.inV

/-- `rst` at the edge that ends the coming cycle; an instance with `LATENCY = 0` has no `rst` input (R24, R96). -/
def UnitState.resetting (u : UnitState) : Bool := decide (0 < u.latency) && u.currentInputs.rst

/-- An instance of strategy `c` to serve the requester of `s`: `s` itself if that is its `STRAT`, and otherwise ANOTHER
instance, newly built with the same `LATENCY` ("To get another strategy, build another instance", R21): nothing is in
flight in it, its `out_valid` is 0 and its `out_r` a fresh free value (R29), and it is presented what the requester was to
present (log 12). -/
def State.rebuiltAs (s : State) (c : StratCode) : State :=
  if s.strat = c then s
  else { State.built c s.latency with
    inputs := s.inputs, out := ⟨false, s.draw.1⟩, drawCount := s.draw.2.drawCount }

/-- An instance of the strategy of a request word, with the word's operand presented in the coming cycle, before anything
the requester already had to present (log 12). -/
def State.presentRequest (s : State) (w : Request) : State :=
  { s.rebuiltAs (stratField w) with inputs := ⟨false, true, operandField w⟩ :: s.inputs }

/-- A ladder of comparators on `v`, tested from the top: the result of the first rung whose threshold `v` reaches, and
`bottom` when it reaches none (R68, R79). -/
def ladder : List (Nat × Int) → Int → Nat → Int
  | [], bottom, _ => bottom
  | (threshold, r) :: rungs, bottom, v => if v ≥ threshold then r else ladder rungs bottom v

end Sys2Proof.Machine
end

