-- ==== Sys2Proof/Machine/BitHalving.lean ====
section
/-! DEFINITION. The bit-halving strategy, EST.BMH (spec/43_bitmask_halving.md). -/

namespace Sys2Proof.Machine

/-- The masks `b[i]` and shifts `S[i]` of R76, coarsest first. -/
def halvingStages : List (Nat × Nat) :=
  [(0xFFFF0000, 16), (0xFF00, 8), (0xF0, 4), (0xC, 2), (0x2, 1)]

/-- One stage of R76 on the remaining value `w` and the accumulator `acc`. -/
def halvingStage (x : Nat × Nat) (stage : Nat × Nat) : Nat × Nat :=
  if x.1 &&& stage.1 ≠ 0 then (x.1 >>> stage.2, x.2 ||| stage.2) else x

/-- `F_BMH` (R76). -/
def fBmh (v : Nat) : Int := (halvingStages.foldl halvingStage (v, 0)).2

/-- `EST.BMH v` (R76). -/
def execEstBmh (v : Word) (s : State) : Host.Outcome State Fault Refusal :=
  acceptOperation v (encodeResult (fBmh (operandValue v))) s

end Sys2Proof.Machine
end

