-- ==== Sys2Proof/Machine/Cascade.lean ====
section
/-! DEFINITION. The comparison-cascade strategy, EST.BMC (spec/44_comparison_cascade.md). -/

namespace Sys2Proof.Machine

/-- The limits of R77's four comparisons, each with the amount its boolean is shifted left by. -/
def cascadeStages : List (Nat × Nat) := [(0xFFFF, 4), (0xFF, 3), (0xF, 2), (0x3, 1)]

/-- One comparison stage of R77 on the remaining value `w` and the accumulator `acc`:
`s <- bool2int(w > limit) << k; w <- w >> s; acc <- acc | s`. -/
def cascadeStage (x : Nat × Nat) (stage : Nat × Nat) : Nat × Nat :=
  let s := (decide (x.1 > stage.1)).toNat <<< stage.2
  (x.1 >>> s, x.2 ||| s)

/-- The remaining value and the accumulator after the four comparisons (R77). -/
def cascadeCompare (v : Nat) : Nat × Nat := cascadeStages.foldl cascadeStage (v, 0)

/-- `F_BMC` (R77), with the final stage `acc <- acc | (w >> 1)` (R78). -/
def fBmc (v : Nat) : Int := ((cascadeCompare v).2 ||| ((cascadeCompare v).1 >>> 1) : Nat)

/-- `EST.BMC v` (R77, R78). -/
def execEstBmc (v : Word) (s : State) : Host.Outcome State Fault Refusal :=
  acceptOperation v (encodeResult (fBmc (operandValue v))) s

end Sys2Proof.Machine
end

