-- ==== Sys2Proof/Machine/Decimal.lean ====
section
/-! DEFINITION. The decimal-threshold ladder, EST.DEC (spec/45_decimal_ladder.md). -/

namespace Sys2Proof.Machine

/-- The nine thresholds of R79, from the largest, each with its result. -/
def decimalRungs : List (Nat × Int) :=
  [ (1000000000, 9), (100000000, 8), (10000000, 7), (1000000, 6), (100000, 5), (10000, 4), (1000, 3), (100, 2),
    (10, 1) ]

/-- The ladder's default arm, which also gives `DEC_ZERO_RESULT` (R9, R81). -/
def decimalBottom : Int := 0

/-- `F_DEC` (R79; R81 at 0). -/
def fDec (v : Nat) : Int := ladder decimalRungs decimalBottom v

/-- `EST.DEC v` (R79). -/
def execEstDec (v : Word) (s : State) : Host.Outcome State Fault Refusal :=
  acceptOperation v (encodeResult (fDec (operandValue v))) s

end Sys2Proof.Machine
end

