-- ==== Sys2Proof/Machine/Reference.lean ====
section
/-! DEFINITION. The reference strategy, EST.REF (spec/41_reference_float.md). -/

namespace Sys2Proof.Machine

/-- The thresholds `T_k` of R68 for `k` from 22 down to 1, each with its `k`. -/
def referenceRungs : List (Nat × Int) :=
  [ (3584912847, 22), (1318815735, 21), (485165196, 20), (178482301, 19), (65659970, 18), (24154953, 17),
    (8886111, 16), (3269018, 15), (1202605, 14), (442414, 13), (162755, 12) ] ++
  [ (59875, 11), (22027, 10), (8104, 9), (2981, 8), (1097, 7), (404, 6), (149, 5), (55, 4), (21, 3), (8, 2), (3, 1) ]

/-- `F_REF(v)` for `v ≥ 1`, as the ladder of R68: the largest `k` with `v ≥ T_k`, where `T_0 = 1`. R68 gives it as equal
to `trunc(ln v)`, which is what R67 asks (log 9). At 0 the unit does not use it (R70). -/
def fRef (v : Nat) : Int := ladder referenceRungs 0 v

/-- `EST.REF v` (R67); at `v = 0` the result is a fresh free value, and the operation is delivered like any other (R70). -/
def execEstRef (v : Word) (s : State) : Host.Outcome State Fault Refusal :=
  if operandValue v ≥ 1 then acceptOperation v (encodeResult (fRef (operandValue v))) s
  else acceptOperation v s.draw.1 (s.draw.2.builtWith s.strat)

end Sys2Proof.Machine
end

