-- ==== Sys2Proof/Machine/Table.lean ====
section
/-! DEFINITION. LogTable256 and the two strategies that read it, EST.TBB and EST.TUB (spec/42_table_lookup.md;
the table space is spec/20_memory.md §1). -/

namespace Sys2Proof.Machine

/-- `LogTable256` by the index ranges of R72, each entry 8 bits of two's complement (R30). It is constant data: nothing
writes it and reset does not change it (R23; log 10). -/
def logTable256 : List Byte :=
  [BitVec.ofInt 8 (-1), 0] ++ List.replicate 2 1 ++ List.replicate 4 2 ++ List.replicate 8 3 ++
  List.replicate 16 4 ++ List.replicate 32 5 ++ List.replicate 64 6 ++ List.replicate 128 7

theorem logTable256_length : logTable256.length = 256 := by
  simp only [logTable256, List.length_append, List.length_replicate, List.length_cons, List.length_nil]

/-- `ROM(i)` (R12, R32): the entry at an 8-bit index, as an integer. All 256 indices are populated (R30). -/
def rom (i : BitVec 8) : Int := (logTable256.get ⟨i.toNat, logTable256_length ▸ i.isLt⟩).toInt

/-- A table read and the offset added to the entry: the shape of every arm of R73 and R75. -/
structure Lookup where
  offset : Int
  index  : Nat
deriving DecidableEq, Repr

/-- `offset + ROM(index)`. The index lines are 8 bits wide (R30); no strategy gives an index outside `0..255` (R32). -/
def Lookup.result (l : Lookup) : Int := l.offset + rom (BitVec.ofNat 8 l.index)

/-- The byte-granularity decision tree of R73. -/
def tbbLookup (v : Nat) : Lookup :=
  let tt := v >>> 16
  if tt ≠ 0 then
    let t := tt >>> 8
    if t ≠ 0 then ⟨24, t⟩ else ⟨16, tt⟩
  else
    let t := v >>> 8
    if t ≠ 0 then ⟨8, t⟩ else ⟨0, v⟩

/-- The uniform chain of four tests of R75. -/
def tubLookup (v : Nat) : Lookup :=
  if v >>> 24 ≠ 0 then ⟨24, v >>> 24⟩
  else if v >>> 16 ≠ 0 then ⟨16, v >>> 16⟩
  else if v >>> 8 ≠ 0 then ⟨8, v >>> 8⟩
  else ⟨0, v⟩

/-- `F_TBB` (R73; R74 at 0). -/
def fTbb (v : Nat) : Int := (tbbLookup v).result

/-- `F_TUB` (R75). -/
def fTub (v : Nat) : Int := (tubLookup v).result

/-- `EST.TBB v` (R73). -/
def execEstTbb (v : Word) (s : State) : Host.Outcome State Fault Refusal :=
  acceptOperation v (encodeResult (fTbb (operandValue v))) s

/-- `EST.TUB v` (R75). -/
def execEstTub (v : Word) (s : State) : Host.Outcome State Fault Refusal :=
  acceptOperation v (encodeResult (fTub (operandValue v))) s

end Sys2Proof.Machine
end

