-- ==== Sys2Proof/Machine/Dispatch.lean ====
section
/-! DEFINITION. One arm per operation (R54): the cycle in which the operation is accepted. -/

namespace Sys2Proof.Machine

def exec (i : Instr) (s : State) : Host.Outcome State Fault Refusal :=
  match i with
  | .estRef v => Sys2Proof.Machine.execEstRef v s
  | .estTbb v => Sys2Proof.Machine.execEstTbb v s
  | .estTub v => Sys2Proof.Machine.execEstTub v s
  | .estBmh v => Sys2Proof.Machine.execEstBmh v s
  | .estBmc v => Sys2Proof.Machine.execEstBmc v s
  | .estDec v => Sys2Proof.Machine.execEstDec v s

end Sys2Proof.Machine
end

