-- ==== Sys2Proof/Machine/Cycle.lean ====
section
/-! DEFINITION. The step relation of the unit, of which `STRAT` is a parameter (R21, spec/10_state.md). -/

namespace Sys2Proof.Machine

/-- One cycle of a unit built with a given `STRAT` (R25, R26, R96). A unit's state holds no `STRAT`, so no cycle can
change it (R21). A build whose `STRAT` is reserved is refused, whatever is presented (R51; decoding never depends on `v`,
R50; log 13). Reset wins over an operand presented at the same edge (R85, R96). -/
def stepUnit (strat : StratCode) (u : UnitState) : Host.Outcome UnitState Fault Refusal :=
  match decodeRequest (u.request strat) with
  | .error _ => .refused .reservedStrat
  | .ok i =>
    if u.resetting then .next (resetCycle u.advanceInputs)
    else if u.currentInputs.inValid then
      match exec i (u.advanceInputs.builtWith strat) with
      | .next t => .next t.toUnitState
      | .fault f => .fault f
      | .refused r => .refused r
    else .next (idleCycle u.advanceInputs)

end Sys2Proof.Machine
end

