-- ==== Sys2Proof/Machine/Step.lean ====
section
/-! DEFINITION. One step: one cycle of the instance (LATENCY > 0) or one instant of it (LATENCY = 0), as a row of
spec/95_test_vectors.md Program 2 shows it (log 3). -/

namespace Sys2Proof.Machine

/-- One cycle of an instance: the unit's step relation at the `STRAT` the instance was built with (R21; log 1). -/
def step (s : State) : Host.Outcome State Fault Refusal :=
  match stepUnit s.strat s.toUnitState with
  | .next u => .next (u.builtWith s.strat)
  | .fault f => .fault f
  | .refused r => .refused r

/-- The state whose very next step runs the operation of a word of the opcode table: an instance of the word's `STRAT`
(another one, if `s` is of another strategy; R21), with the word's operand presented in the coming cycle (log 12). -/
def State.withFetchWord (s : State) (_nbits w : Nat) : State := s.presentRequest (BitVec.ofNat 35 w)

end Sys2Proof.Machine
end

