-- ==== Sys2Proof/Machine/Contract.lean ====
section
/-! DEFINITION. The operation contract (spec/40_operation_contract.md): the functions `F_s` in one place, for the
statements that speak of every strategy. The meanings do not go through it. -/

namespace Sys2Proof.Machine

/-- `F_s(v)` by operation (R54). It is one fixed integer for every operation but `EST.REF 0`, which may give any value
(R55, R70): `none`. -/
def contractResult : Instr → Option Int
  | .estRef v => if operandValue v ≥ 1 then some (fRef (operandValue v)) else none
  | .estTbb v => some (fTbb (operandValue v))
  | .estTub v => some (fTub (operandValue v))
  | .estBmh v => some (fBmh (operandValue v))
  | .estBmc v => some (fBmc (operandValue v))
  | .estDec v => some (fDec (operandValue v))

/-- `word` is a value on `out_r` that the contract allows as the result of an operation: the encoding of its one result,
or anything for `EST.REF 0` (R47, R55). -/
def MayDeliver (i : Instr) (word : Word) : Prop := ∀ r, contractResult i = some r → word = encodeResult r

/-- `word` may be the result of operand `v` on an instance whose strategy code is `strat` (R54). -/
def MayAnswer (strat : StratCode) (v word : Word) : Prop :=
  ∀ i, decodeRequest (requestWord strat v) = .ok i → MayDeliver i word

end Sys2Proof.Machine
end

