-- ==== Sys2Proof/Machine/Platform.lean ====
section
/-! DEFINITION. A platform of several instances (R93, spec/60_exceptions.md). Instances share no writable state, and
the one thing they may share, LogTable256, is constant. -/

namespace Sys2Proof.Machine

/-- The instances of a platform, each with its own `STRAT`, `LATENCY` and operand stream (R93). -/
abbrev Platform := List State

/-- Instance `k` goes through one cycle of its own and the others stand still. Which instance runs next is the
platform's business, outside the unit (R93; log 16). -/
def Platform.stepAt (p : Platform) (k : Nat) : Host.Outcome Platform Fault Refusal :=
  match p[k]? with
  | none => .refused .noSuchInstance
  | some s =>
    match step s with
    | .next t => .next (p.set k t)
    | .fault f => .fault f
    | .refused r => .refused r

end Sys2Proof.Machine
end

