-- ==== Sys2Proof/Safety.lean ====
section
/-! DEFINITION. The terms statements are made in: a legal build, the invariant, what one cycle does, what a run shows on
the outputs, and the requester's duties. -/

namespace Sys2Proof.Machine

/-- The instance could be built (R51). -/
def State.Built (s : State) : Prop := legalStrat s.strat = true

/-- A sound instance: its build is legal (R51), every operation in flight holds a result of its own operand (R54, R56),
and a result on the outputs is the result of some operand. -/
structure State.Sound (s : State) : Prop where
  built     : s.Built
  inFlight  : ∀ op, some op ∈ s.inFlight → MayAnswer s.strat op.operand op.result
  presented : s.out.valid = true → ∃ v, MayAnswer s.strat v s.out.r

/-- The outputs show the operation that is due: `out_valid` is 1 and `out_r` its result, or `out_valid` is 0 when none
is due (R26); nothing is said of `out_r` then (R27). -/
def UnitState.Presents (t : UnitState) (due : Option InFlight) : Prop :=
  (due = none → t.out.valid = false) ∧ ∀ op, due = some op → t.out = ⟨true, op.result⟩

/-- All that a cycle that accepts `accepted` (or nothing) does to an instance, its inputs apart (R25, R26, R56): `STRAT`
stays; every operation in flight comes one cycle nearer, its operand and result unchanged; the one due is presented; the
accepted one is due `LATENCY` cycles on, which with `LATENCY = 0` is at once. -/
structure CycleEffect (s t : State) (accepted : Option InFlight) : Prop where
  strat         : t.strat = s.strat
  combinational : s.inFlight = [] → t.inFlight = [] ∧ t.Presents accepted
  pipelined     : ∀ due later, s.inFlight = due :: later → t.inFlight = later ++ [accepted] ∧ t.Presents due

/-- The input signals in cycle `n` from now (R24); past the end of the list nothing is presented (log 4). -/
def UnitState.inputAt (s : UnitState) (n : Nat) : Inputs := s.inputs.getD n Inputs.idle

/-- The edge that ends cycle `n` from now is a reset edge (R96). -/
def UnitState.ResetsAt (s : UnitState) (n : Nat) : Prop := 0 < s.latency ∧ (s.inputAt n).rst = true

/-- An operand is accepted in cycle `n` from now (R25). -/
def UnitState.AcceptsAt (s : UnitState) (n : Nat) : Prop := (s.inputAt n).inValid = true ∧ ¬ s.ResetsAt n

/-- The output signals in cycle `n` from now (log 3). -/
def State.outputAt (s : State) (n : Nat) : Option Outputs :=
  match Sys2Proof.core.run (n + 1) s with
  | .next t => some (State.toUnitState t).out
  | .fault _ => none
  | .refused _ => none

/-- The duty of a requester that needs a meaningful result: it presents no zero operand (R63; R100, point 4). -/
def AvoidsZero (inputs : List Inputs) : Prop := ∀ c ∈ inputs, c.inValid = true → c.inV ≠ 0

end Sys2Proof.Machine
end

