-- ==== Sys2Proof/Certificates/Slice0/Obligations.lean ====
section
/-! DEFINITION. The statements for the provers. Each docstring names the rule of spec/ it formalises. -/

open Sys2Proof Sys2Proof.Machine

/-! ### Encoding (spec/30_encoding.md) -/

/-- R50: a request word with code `s ≤ 5` selects the row with `match = s * 2^32` and `mask = 0x700000000`, and its operand
is `w[31:0]`; a code of 6 or 7 selects none; the row depends on the code alone. -/
def Obligations.DecoderSelectsRowByStrategyCode : Prop :=
  ∀ w : Request,
    ((w.extractLsb 34 32).toNat ≤ 5 →
      ∃ row ∈ opcodeTable,
        row.pattern.toNat = (w.extractLsb 34 32).toNat * 2 ^ 32 ∧ row.mask = 0x700000000 ∧
        (∀ w' : Request, w'.extractLsb 34 32 = w.extractLsb 34 32 →
          decodeRequest w' = .ok (row.make (w'.extractLsb 31 0)))) ∧
    (6 ≤ (w.extractLsb 34 32).toNat → decodeRequest w = .error .reservedStrat)

/-- R43, R49 (the format and the codes): a request word read as a number is `STRAT * 2^32 + v`, with the codes of R49 in
the order of its list. -/
def Obligations.RequestWordIsStratTimesTwoPow32PlusOperand : Prop :=
  ∀ v : Word,
    (encode (.estRef v)).toNat = v.toNat ∧
    (encode (.estTbb v)).toNat = 1 * 2 ^ 32 + v.toNat ∧
    (encode (.estTub v)).toNat = 2 * 2 ^ 32 + v.toNat ∧
    (encode (.estBmh v)).toNat = 3 * 2 ^ 32 + v.toNat ∧
    (encode (.estBmc v)).toNat = 4 * 2 ^ 32 + v.toNat ∧
    (encode (.estDec v)).toNat = 5 * 2 ^ 32 + v.toNat

/-- Decode and encode agree, both ways: an operation's bytes decode to it and leave the bytes after them; and bytes that
decode to an operation begin with that operation's bytes. The byte layout is the model's (log 11). -/
def Obligations.DecodeAndEncodeAgree : Prop :=
  (∀ i rest, decode (encodeBytes i ++ rest) = .ok (i, rest)) ∧
  (∀ bytes i rest, decode bytes = .ok (i, rest) → bytes = encodeBytes i ++ rest)

/-- Request words of the programs of spec/95_test_vectors.md §3, at least one of each strategy, decode to the operations
written beside them there. -/
def Obligations.ProgramWordsDecode : Prop :=
  decodeRequest 0x000000015 = .ok (.estRef 21) ∧
  decodeRequest 0x100012345 = .ok (.estTbb 0x00012345) ∧
  decodeRequest 0x200000000 = .ok (.estTub 0) ∧
  decodeRequest 0x300F00000 = .ok (.estBmh 0x00F00000) ∧
  decodeRequest 0x400010000 = .ok (.estBmc 0x00010000) ∧
  decodeRequest 0x5075BCD15 = .ok (.estDec 123456789)

/-- The host's interface (log 12): the decoder reads every word of the table, and `withFetchWord` makes the next step run
the operation it reads: on the instance itself, as it was, if that is of the operation's strategy; and otherwise on another
instance, of that strategy and the same `LATENCY`, with nothing in flight, nothing presented yet and the same inputs to
come (R21, R29). -/
def Obligations.FetchedTableWordRuns : Prop :=
  (∀ code ≤ 5, ∀ v : Word, ∃ i, decodeTableWord 40 (code * 2 ^ 32 + v.toNat) = some i ∧
    i.strat.toNat = code ∧ i.operand = v) ∧
  (∀ (s : State) (w : Nat) (i : Instr), decodeTableWord 40 w = some i →
    (i.strat = s.strat → step (s.withFetchWord 40 w) = exec i s) ∧
    (i.strat ≠ s.strat → ∃ s' : State, step (s.withFetchWord 40 w) = exec i s' ∧
      s'.strat = i.strat ∧ s'.latency = s.latency ∧ s'.inputs = s.inputs ∧ (∀ op, some op ∉ s'.inFlight) ∧
      s'.out.valid = false ∧ s.drawCount ≤ s'.drawCount))

/-- R47: a result in `[-2^31, 2^31-1]` is encoded as `r mod 2^32`, two's complement; the rule's three examples; and every
result the contract fixes lies in that range. -/
def Obligations.ResultEncodingIsTwosComplement : Prop :=
  (∀ r : Int, -2 ^ 31 ≤ r → r ≤ 2 ^ 31 - 1 →
    ((encodeResult r).toNat : Int) = r % 2 ^ 32 ∧ (encodeResult r).toInt = r) ∧
  encodeResult (-1) = 0xFFFFFFFF ∧ encodeResult 0 = 0x00000000 ∧ encodeResult 31 = 0x0000001F ∧
  (∀ i r, contractResult i = some r → -2 ^ 31 ≤ r ∧ r ≤ 2 ^ 31 - 1)

/-! ### The machine: acceptance, delivery, reset (spec/10_state.md, spec/70_reset_and_hazards.md) -/

/-- R25: when an operand is presented and the edge is no reset edge, the step is the execution of the operation that the
instance's `STRAT` and the operand decode to, on the state with this cycle's inputs taken. -/
def Obligations.StepRunsDecodedOperation : Prop :=
  ∀ (s : State) (c : Inputs) (rest : List Inputs) (i : Instr), s.inputs = c :: rest → c.inValid = true → (0 < s.latency → c.rst = false) →
    decodeRequest (requestWord s.strat c.inV) = .ok i →
    step s = exec i { s with inputs := rest }

/-- R25, R26, R95: in a cycle where no operand is presented nothing is accepted; what is in flight comes one cycle nearer
and the operation due is presented. -/
def Obligations.IdleCycleAcceptsNothing : Prop :=
  ∀ s : State, s.Built → (s.inputAt 0).inValid = false → ¬ s.ResetsAt 0 →
    ∃ t, step s = .next t ∧ t.inputs = s.inputs.tail ∧ CycleEffect s t none

/-- R96: at a reset edge every operation still in flight is discarded, the operand presented is not accepted, `STRAT` and
`LATENCY` stay, and `out_valid` is 0 from the following cycle until the first operation accepted after reset is due; an
instance with `LATENCY = 0` does not look at `rst`. -/
def Obligations.ResetDiscardsEverythingInFlight : Prop :=
  ∀ (s : State) (c : Inputs) (rest : List Inputs), s.Built → s.inputs = c :: rest → c.rst = true →
    (0 < s.latency → ∃ t, step s = .next t ∧
      t.strat = s.strat ∧ t.inputs = rest ∧ t.inFlight = List.replicate s.latency none ∧
      t.Presents (s.inFlight.headD none) ∧
      ∀ n, (∀ m, m + t.latency ≤ n → ¬ t.AcceptsAt m) → ∃ o : Outputs, t.outputAt n = some o ∧ o.valid = false) ∧
    (s.latency = 0 → step s = step { s with inputs := { c with rst := false } :: rest })

/-- R29: an instance right after reset has its built `STRAT` and `LATENCY`, nothing in flight and `out_valid` 0. That
`State.reset` is the build with `STRAT` 0 and `LATENCY` 0, and that nothing is presented yet, is the model's choice
(log 5, log 4). -/
def Obligations.StateAfterReset : Prop :=
  (∀ (strat : StratCode) (latency : Nat), (State.built strat latency).strat = strat ∧ (State.built strat latency).latency = latency ∧
    (∀ op, some op ∉ (State.built strat latency).inFlight) ∧ (State.built strat latency).out.valid = false) ∧
  State.reset = State.built 0 0 ∧ State.reset.inputs = []

/-- R26 (with R25 and R96), for every legal `STRAT`, every `LATENCY` and every state: cycle `m + LATENCY` shows
`out_valid` exactly when an operand was accepted in cycle `m` and no reset edge came before it was due, and `out_r` is then
a result of that operand. So every accepted operand is answered exactly `LATENCY` cycles later, in acceptance order. -/
def Obligations.ResultAppearsLatencyCyclesAfterAcceptance : Prop :=
  ∀ (s : State) (m : Nat), s.Built → ∃ o : Outputs, s.outputAt (m + s.latency) = some o ∧
    (o.valid = true ↔ s.AcceptsAt m ∧ ∀ j, m < j → j < m + s.latency → ¬ s.ResetsAt j) ∧
    (o.valid = true → MayAnswer s.strat (s.inputAt m).inV o.r)

/-- R26, R28, R96: an operation in flight that is due `n` cycles on is presented in cycle `n` with the result it holds,
unless a reset edge comes before; and those cycles show nothing else. -/
def Obligations.InFlightOperationAppearsWhenDue : Prop :=
  ∀ (s : State) (n : Nat), s.Built → n < s.latency → ∃ o : Outputs, s.outputAt n = some o ∧
    (o.valid = true ↔ (∃ op, s.inFlight[n]? = some (some op)) ∧ ∀ j < n, ¬ s.ResetsAt j) ∧
    (o.valid = true → ∀ op, s.inFlight[n]? = some (some op) → o.r = op.result)

/-- R26 (results come out in acceptance order, one per accepted operand), R100 point 2: on an instance with nothing in
flight, and with no reset edge to come, the results shown in the first `N + LATENCY` cycles answer, one by one and in
order, the operands accepted in the first `N` cycles. -/
def Obligations.ResultsComeInAcceptanceOrder : Prop :=
  ∀ (s : State) (N : Nat), s.Built → (∀ op, some op ∉ s.inFlight) → (∀ n, ¬ s.ResetsAt n) →
    List.Forall₂ (fun v r => MayAnswer s.strat v r)
      ((List.range N).filterMap fun n => if (s.inputAt n).inValid then some (s.inputAt n).inV else none)
      ((List.range (N + s.latency)).filterMap fun n =>
        (s.outputAt n).bind fun o => if o.valid then some o.r else none)

/-- R26, `LATENCY = 0`: `out_valid` is `in_valid` in the same instant, `out_r` is a result of the operand presented, and
the unit holds nothing. -/
def Obligations.CombinationalInstanceAnswersAtOnce : Prop :=
  ∀ s : State, s.Built → s.latency = 0 → ∃ t, step s = .next t ∧ t.inputs = s.inputs.tail ∧ t.inFlight = [] ∧
    t.out.valid = (s.inputAt 0).inValid ∧ (t.out.valid = true → MayAnswer s.strat (s.inputAt 0).inV t.out.r)

/-- Every step keeps a sound instance sound (R51, R54, R56). -/
def Obligations.StepKeepsSound : Prop :=
  ∀ s t : State, s.Sound → step s = .next t → t.Sound

/-- An instance right after reset is sound, whatever its legal `STRAT` and its `LATENCY`. -/
def Obligations.ResetIsSound : Prop :=
  (∀ (strat : StratCode) (latency : Nat), legalStrat strat = true → (State.built strat latency).Sound) ∧ State.reset.Sound

/-- R21: no operation, signal or reset changes `STRAT`; and none changes `LATENCY`, a parameter of the build (R9, R101)
that the model holds as the number of slots (log 2). -/
def Obligations.StratAndLatencyNeverChange : Prop :=
  (∀ s t : State, step s = .next t → t.strat = s.strat ∧ t.latency = s.latency) ∧
  (∀ (i : Instr) (s t : State), exec i s = .next t → t.strat = s.strat ∧ t.latency = s.latency)

/-- R21: `STRAT` is a parameter of the step relation `stepUnit`, whose states hold no `STRAT`. A step of an instance is that
relation at the instance's own parameter, and its end has the same parameter; and executing an operation changes the unit's
state in a way that the parameter has no part in. That an instance is the pair of the two is the model's choice (log 1). -/
def Obligations.StratIsParameterOfStepRelation : Prop :=
  ∀ (strat : StratCode) (u : UnitState),
    (∀ v, stepUnit strat u = .next v ↔ step (u.builtWith strat) = .next (v.builtWith strat)) ∧
    (∀ t, step (u.builtWith strat) = .next t → ∃ v, t = v.builtWith strat ∧ stepUnit strat u = .next v) ∧
    (∀ i, ∃ v : UnitState, ∀ c : StratCode, exec i (u.builtWith c) = .next (v.builtWith c))

/-- A step is refused exactly when `STRAT` is 6 or 7, whatever is presented: that R51's refusal of the configuration is a
refusal of every step, idle and reset cycles too, is DEDUCED (log 13). Every other step has a next state (R57), and no step
faults (R82: the type of faults has no constructor). -/
def Obligations.OnlyReservedStratIsRefused : Prop :=
  ∀ s : State, (6 ≤ s.strat.toNat → step s = .refused .reservedStrat) ∧
    (s.strat.toNat ≤ 5 → ∃ t, step s = .next t) ∧
    (∀ f, step s ≠ .fault f)

/-! ### What every operation does (spec/40_operation_contract.md) -/

/-- The frame of all six operations (R56): an executed operation changes nothing but what one cycle changes. `STRAT`, the
coming inputs and the operand and result of every operation already in flight are unchanged, and the operation itself
enters with its own operand. -/
def Obligations.OperationFrame : Prop :=
  ∀ (i : Instr) (s t : State), exec i s = .next t →
    t.inputs = s.inputs ∧ s.drawCount ≤ t.drawCount ∧ ∃ r, CycleEffect s t (some ⟨i.operand, r⟩)

/-- R54, R55 for `EST.REF` (`v ≥ 1`), `EST.TBB`, `EST.TUB`, `EST.BMH`, `EST.BMC` and `EST.DEC`: the operation executes in
every state, and its result is the one integer the contract fixes, the same in every state. -/
def Obligations.OperationDeliversContractResult : Prop :=
  ∀ (i : Instr) (r : Int), contractResult i = some r → ∀ s : State, ∃ t : State, exec i s = .next t ∧ t.inputs = s.inputs ∧
    CycleEffect s t (some ⟨i.operand, encodeResult r⟩)

/-- R59 for `EST.TBB`, `EST.TUB`, `EST.BMH` and `EST.BMC`: for every `v ≥ 1` the operation executes in every state and its
result `r` satisfies `2^r ≤ v < 2^(r+1)`: `floor(log2(v))`, the index of the highest set bit, `31 - clz(v)`. -/
def Obligations.BaseTwoStrategiesGiveFloorLog2 : Prop :=
  ∀ make ∈ [Instr.estTbb, Instr.estTub, Instr.estBmh, Instr.estBmc], ∀ (v : Word) (s : State), 1 ≤ v.toNat →
    ∃ (r : Nat) (t : State), exec (make v) s = .next t ∧ t.inputs = s.inputs ∧
      CycleEffect s t (some ⟨v, encodeResult r⟩) ∧
      2 ^ r ≤ v.toNat ∧ v.toNat < 2 ^ (r + 1) ∧
      (r : Int) = ⌊Real.logb 2 v.toNat⌋ ∧
      (v.getLsbD r = true ∧ ∀ j, r < j → v.getLsbD j = false) ∧
      (r : Int) = 31 - v.clz.toNat

/-- R60: for every `v ≥ 1` the four base-2 strategies do the same to every state; for every `v`, 0 included, `EST.TBB` and
`EST.TUB` do the same, and so do `EST.BMH` and `EST.BMC`. -/
def Obligations.BaseTwoStrategiesAgree : Prop :=
  ∀ (v : Word) (s : State),
    exec (.estTbb v) s = exec (.estTub v) s ∧ exec (.estBmh v) s = exec (.estBmc v) s ∧
    (1 ≤ v.toNat → exec (.estTbb v) s = exec (.estBmh v) s)

/-- R61: for every strategy, `1 ≤ v1 ≤ v2` gives `F_s(v1) ≤ F_s(v2)`. -/
def Obligations.ResultsAreMonotone : Prop :=
  ∀ make ∈ [Instr.estRef, Instr.estTbb, Instr.estTub, Instr.estBmh, Instr.estBmc, Instr.estDec],
    ∀ v1 v2 : Word, 1 ≤ v1.toNat → v1.toNat ≤ v2.toNat →
      ∃ r1 r2, contractResult (make v1) = some r1 ∧ contractResult (make v2) = some r2 ∧ r1 ≤ r2

/-- R48: the results each strategy can give, and no others. -/
def Obligations.ResultRanges : Prop :=
  (∀ r : Int, (∃ v : Word, 1 ≤ v.toNat ∧ contractResult (.estRef v) = some r) ↔ 0 ≤ r ∧ r ≤ 22) ∧
  (∀ make ∈ [Instr.estTbb, Instr.estTub, Instr.estBmh, Instr.estBmc], ∀ r : Int,
    (∃ v : Word, 1 ≤ v.toNat ∧ contractResult (make v) = some r) ↔ 0 ≤ r ∧ r ≤ 31) ∧
  (∀ r : Int, (∃ v : Word, 1 ≤ v.toNat ∧ contractResult (.estDec v) = some r) ↔ 0 ≤ r ∧ r ≤ 9) ∧
  contractResult (.estRef 0) = none ∧
  contractResult (.estTbb 0) = some (-1) ∧ contractResult (.estTub 0) = some (-1) ∧
  contractResult (.estBmh 0) = some 0 ∧ contractResult (.estBmc 0) = some 0 ∧
  contractResult (.estDec 0) = some 0

/-- R74 and R81, with the zero results of `EST.TUB`, `EST.BMH` and `EST.BMC` (R62): each operation executes at `v = 0` in
every state and enters with its own strategy's result. -/
def Obligations.ZeroOperandResults : Prop :=
  ∀ s : State,
    (∃ t, exec (.estTbb 0) s = .next t ∧ t.inputs = s.inputs ∧ CycleEffect s t (some ⟨0, 0xFFFFFFFF⟩)) ∧
    (∃ t, exec (.estTub 0) s = .next t ∧ t.inputs = s.inputs ∧ CycleEffect s t (some ⟨0, 0xFFFFFFFF⟩)) ∧
    (∃ t, exec (.estBmh 0) s = .next t ∧ t.inputs = s.inputs ∧ CycleEffect s t (some ⟨0, 0⟩)) ∧
    (∃ t, exec (.estBmc 0) s = .next t ∧ t.inputs = s.inputs ∧ CycleEffect s t (some ⟨0, 0⟩)) ∧
    (∃ t, exec (.estDec 0) s = .next t ∧ t.inputs = s.inputs ∧ CycleEffect s t (some ⟨0, 0⟩))

/-- What is delivered does not depend on the unit's history (R15, R55, R56): two instances of one `STRAT` and `LATENCY`
that are presented the same inputs, whatever each holds in flight and whatever went before, show the same results from
cycle `LATENCY` on; for `EST.REF`, when the requester presents no zero operand (R63). -/
def Obligations.ResultsDoNotDependOnHistory : Prop :=
  ∀ s1 s2 : State, s1.Built → s1.strat = s2.strat → s1.latency = s2.latency → s1.inputs = s2.inputs →
    (s1.strat ≠ 0 ∨ AvoidsZero s1.inputs) →
    ∀ n, s1.latency ≤ n → ∃ o1 o2 : Outputs, s1.outputAt n = some o1 ∧ s2.outputAt n = some o2 ∧
      o1.valid = o2.valid ∧ (o1.valid = true → o1.r = o2.r)

/-- Free values are fresh (the model's form of `DRAW_i32`, log 6): a step never takes the counter back; the `out_r` of a
cycle that presents nothing is a free value the state had not used, and so is the result of `EST.REF 0`. -/
def Obligations.FreeValuesAreFresh : Prop :=
  (∀ s t : State, step s = .next t → s.drawCount ≤ t.drawCount ∧
    (t.out.valid = false → ∃ k, s.drawCount ≤ k ∧ k < t.drawCount ∧ t.out.r = Config.draw k)) ∧
  (∀ s : State, ∃ (t : State) (k : Nat), exec (.estRef 0) s = .next t ∧ s.drawCount ≤ k ∧ k < t.drawCount ∧
    CycleEffect s t (some ⟨0, Config.draw k⟩) ∧
    (t.out.valid = false → ∃ k', k < k' ∧ k' < t.drawCount ∧ t.out.r = Config.draw k'))

/-! ### EST.REF (spec/41_reference_float.md) -/

/-- R67: for `v ≥ 1`, `EST.REF v` executes in every state and its result is the natural logarithm of the exact value of
`v`, rounded toward zero; at `v = 0` it executes too, and some result is delivered (R70). -/
def Obligations.ReferenceIsTruncatedNaturalLogarithm : Prop :=
  ∀ (v : Word) (s : State),
    (1 ≤ v.toNat → ∃ t, exec (.estRef v) s = .next t ∧ t.inputs = s.inputs ∧
      CycleEffect s t (some ⟨v, encodeResult (if 0 ≤ Real.log v.toNat then ⌊Real.log v.toNat⌋
        else ⌈Real.log v.toNat⌉)⟩)) ∧
    (v = 0 → ∃ t r, exec (.estRef v) s = .next t ∧ t.inputs = s.inputs ∧ CycleEffect s t (some ⟨v, r⟩))

/-- R68: the thresholds of the table are `T_0 = 1` and `T_k = floor(e^k) + 1`, `e^23` is above `2^32 - 1`, no `e^k` with
`k ≥ 1` is an integer, and for `v ≥ 1` `F_REF(v)` is the largest `k` in `0..22` with `v ≥ T_k`, which is the largest with
`ln(v) ≥ k`. -/
def Obligations.ReferenceIsThresholdLadder : Prop :=
  ∃ T : List Nat,
    T = [1, 3, 8, 21, 55, 149, 404, 1097, 2981, 8104, 22027, 59875, 162755, 442414, 1202605, 3269018, 8886111,
      24154953, 65659970, 178482301, 485165196, 1318815735, 3584912847] ∧
    (∀ k : Nat, 1 ≤ k → k ≤ 22 → T[k]? = some (⌊Real.exp k⌋₊ + 1)) ∧
    (2 ^ 32 - 1 : Real) < Real.exp 23 ∧
    (∀ k : Nat, 1 ≤ k → k ≤ 22 → ∀ n : Int, Real.exp k ≠ n) ∧
    ∀ v : Word, 1 ≤ v.toNat → ∃ k : Nat, k ≤ 22 ∧ contractResult (.estRef v) = some (k : Int) ∧
      (∃ Tk, T[k]? = some Tk ∧ Tk ≤ v.toNat) ∧
      (∀ j : Nat, j ≤ 22 → k < j → ∃ Tj, T[j]? = some Tj ∧ v.toNat < Tj) ∧
      (∀ j : Nat, j ≤ 22 → ∀ Tj, T[j]? = some Tj → (Tj ≤ v.toNat ↔ (j : Real) ≤ Real.log v.toNat))

/-- R71: `e^r ≤ v < e^(r+1)` for every `v ≥ 1`; the five values the rule lists, of which the second breaks R59's bracket
by powers of 2; and R61's monotonicity, which `EST.REF` does meet. -/
def Obligations.ReferenceBracketsOperandByPowersOfE : Prop :=
  (∀ v : Word, 1 ≤ v.toNat → ∃ r : Int, contractResult (.estRef v) = some r ∧
    Real.exp r ≤ v.toNat ∧ (v.toNat : Real) < Real.exp (r + 1)) ∧
  contractResult (.estRef 1) = some 0 ∧ contractResult (.estRef 2) = some 0 ∧
  contractResult (.estRef 1023) = some 6 ∧ contractResult (.estRef 1024) = some 6 ∧
  contractResult (.estRef 0xFFFFFFFF) = some 22 ∧
  (¬ ∀ (v : Word) (r : Nat), 1 ≤ v.toNat → contractResult (.estRef v) = some (r : Int) →
    2 ^ r ≤ v.toNat ∧ v.toNat < 2 ^ (r + 1)) ∧
  (∀ v1 v2 : Word, 1 ≤ v1.toNat → v1.toNat ≤ v2.toNat → ∃ r1 r2,
    contractResult (.estRef v1) = some r1 ∧ contractResult (.estRef v2) = some r2 ∧ r1 ≤ r2)

/-! ### EST.TBB and EST.TUB (spec/42_table_lookup.md) -/

/-- R72: `LogTable256` has 256 entries, `ROM(0) = -1`, and `ROM(i) = floor(log2(i))` for `1 ≤ i ≤ 255`; by ranges, the
entry is `k` on `2^k .. 2^(k+1)-1`. -/
def Obligations.TableHoldsFloorLog2 : Prop :=
  logTable256.length = 256 ∧ rom 0 = -1 ∧
  (∀ i : BitVec 8, i ≠ 0 → rom i = ⌊Real.logb 2 i.toNat⌋) ∧
  (∀ (k : Nat) (i : BitVec 8), 2 ^ k ≤ i.toNat → i.toNat < 2 ^ (k + 1) → rom i = k)

/-- The arms of R73 and R75: for every operand, `EST.TBB` and `EST.TUB` execute in every state with `24 + ROM(v[31:24])`,
`16 + ROM(v[23:16])`, `8 + ROM(v[15:8])` or `ROM(v[7:0])`, for the highest byte of `v` that is not zero (the last when all
are). -/
def Obligations.TableStrategiesReadHighestNonzeroByte : Prop :=
  ∀ make ∈ [Instr.estTbb, Instr.estTub], ∀ (v : Word) (s : State), ∃ t,
    exec (make v) s = .next t ∧ t.inputs = s.inputs ∧
    CycleEffect s t (some ⟨v, encodeResult (
      if v.extractLsb 31 24 ≠ 0 then 24 + rom (v.extractLsb 31 24)
      else if v.extractLsb 23 16 ≠ 0 then 16 + rom (v.extractLsb 23 16)
      else if v.extractLsb 15 8 ≠ 0 then 8 + rom (v.extractLsb 15 8)
      else rom (v.extractLsb 7 0))⟩)

/-- R32 (no index outside `0..255`) and the corner case of R73: the index both strategies read is in range for every
32-bit operand, and the sentinel's index 0 is read with offset 0 only, at `v = 0` only. -/
def Obligations.TableIndexIsInRange : Prop :=
  ∀ v < 2 ^ 32, ∀ l, l = tbbLookup v ∨ l = tubLookup v →
    l.index ≤ 255 ∧ (l.index = 0 → l.offset = 0 ∧ v = 0)

/-! ### EST.BMH and EST.BMC (spec/43_bitmask_halving.md, spec/44_comparison_cascade.md) -/

/-- The five stages of R76 for every 32-bit operand: what remains of `v` is `v` shifted right by the accumulator, and it is
1 when `v ≥ 1`; and the accumulator, an OR of the shifts of the stages taken, is their sum (R64). -/
def Obligations.HalvingShiftsOperandToOne : Prop :=
  ∀ v < 2 ^ 32,
    ((halvingStages.foldl halvingStage (v, 0)).1 = v >>> (halvingStages.foldl halvingStage (v, 0)).2) ∧
    (1 ≤ v → (halvingStages.foldl halvingStage (v, 0)).1 = 1) ∧
    (halvingStages.foldl halvingStage (v, 0)).2 =
      (halvingStages.foldl (fun x st => if x.1 &&& st.1 ≠ 0 then (x.1 >>> st.2, x.2 + st.2) else x) (v, 0)).2

/-- R78: after the four comparisons the remaining value is at most 3; without the final stage the accumulator is
`floor(log2(v))` when that is even and one too small when it is odd. -/
def Obligations.CascadeNeedsFinalStage : Prop :=
  ∀ v, 1 ≤ v → v < 2 ^ 32 →
    1 ≤ (cascadeCompare v).1 ∧ (cascadeCompare v).1 ≤ 3 ∧
    ((Nat.log2 v % 2 = 0 → (cascadeCompare v).2 = Nat.log2 v) ∧
     (Nat.log2 v % 2 = 1 → (cascadeCompare v).2 + 1 = Nat.log2 v)) ∧
    fBmc v = Nat.log2 v

/-! ### EST.DEC (spec/45_decimal_ladder.md) -/

/-- R80: for every `v ≥ 1`, `EST.DEC v` executes in every state and its result `r` satisfies `10^r ≤ v < 10^(r+1)`; 999
gives 2 and 1000 gives 3. -/
def Obligations.DecimalGivesFloorLog10 : Prop :=
  (∀ (v : Word) (s : State), 1 ≤ v.toNat → ∃ (r : Nat) (t : State),
    contractResult (.estDec v) = some (r : Int) ∧
    exec (.estDec v) s = .next t ∧ t.inputs = s.inputs ∧ CycleEffect s t (some ⟨v, encodeResult r⟩) ∧
    10 ^ r ≤ v.toNat ∧ v.toNat < 10 ^ (r + 1)) ∧
  contractResult (.estDec 999) = some 2 ∧ contractResult (.estDec 1000) = some 3

/-! ### Platforms (spec/60_exceptions.md §5) -/

/-- R93: the instances of a platform are independent: two cycles of two different instances, each with a legal build, can
be taken in either order, with the same platform at the end, and neither touches a third instance. -/
def Obligations.PlatformInstancesAreIndependent : Prop :=
  ∀ (p : Platform) (j k : Nat) (sj sk : State), j ≠ k → p[j]? = some sj → p[k]? = some sk → sj.Built → sk.Built →
    ∃ q r u, p.stepAt j = .next q ∧ q.stepAt k = .next u ∧ p.stepAt k = .next r ∧ r.stepAt j = .next u ∧
      ∀ i, i ≠ j → i ≠ k → u[i]? = p[i]?
end

