-- ==== Sys2Proof/Laws/State.lean ====
section
/-! SUPPORT. One lemma per field per update of UnitState and State, true by definition. -/

namespace Sys2Proof.Machine

@[simp] theorem UnitState.builtWith_toUnitState (u : UnitState) (c : StratCode) :
    (u.builtWith c).toUnitState = u := rfl
@[simp] theorem UnitState.builtWith_strat (u : UnitState) (c : StratCode) : (u.builtWith c).strat = c := rfl
@[simp] theorem State.toUnitState_builtWith (s : State) : s.toUnitState.builtWith s.strat = s := rfl

@[simp] theorem UnitState.draw_value (u : UnitState) : u.draw.1 = Config.draw u.drawCount := rfl
@[simp] theorem UnitState.draw_inputs (u : UnitState) : u.draw.2.inputs = u.inputs := rfl
@[simp] theorem UnitState.draw_inFlight (u : UnitState) : u.draw.2.inFlight = u.inFlight := rfl
@[simp] theorem UnitState.draw_out (u : UnitState) : u.draw.2.out = u.out := rfl
@[simp] theorem UnitState.draw_drawCount (u : UnitState) : u.draw.2.drawCount = u.drawCount + 1 := rfl
@[simp] theorem UnitState.draw_latency (u : UnitState) : u.draw.2.latency = u.latency := rfl

@[simp] theorem UnitState.advanceInputs_inputs (u : UnitState) : u.advanceInputs.inputs = u.inputs.tail := rfl
@[simp] theorem UnitState.advanceInputs_inFlight (u : UnitState) : u.advanceInputs.inFlight = u.inFlight := rfl
@[simp] theorem UnitState.advanceInputs_out (u : UnitState) : u.advanceInputs.out = u.out := rfl
@[simp] theorem UnitState.advanceInputs_drawCount (u : UnitState) : u.advanceInputs.drawCount = u.drawCount := rfl
@[simp] theorem UnitState.advanceInputs_latency (u : UnitState) : u.advanceInputs.latency = u.latency := rfl

@[simp] theorem State.built_strat (c : StratCode) (n : Nat) : (State.built c n).strat = c := rfl
@[simp] theorem State.built_inputs (c : StratCode) (n : Nat) : (State.built c n).inputs = [] := rfl
@[simp] theorem State.built_inFlight (c : StratCode) (n : Nat) :
    (State.built c n).inFlight = List.replicate n none := rfl
@[simp] theorem State.built_valid (c : StratCode) (n : Nat) : (State.built c n).out.valid = false := rfl

/-! ### Serving a requester with an instance of a given strategy -/

/-- An instance of the strategy asked for is itself (R21). -/
@[simp] theorem State.rebuiltAs_self (s : State) : s.rebuiltAs s.strat = s := if_pos rfl

@[simp] theorem State.rebuiltAs_strat (s : State) (c : StratCode) : (s.rebuiltAs c).strat = c := by
  unfold State.rebuiltAs
  split
  · assumption
  · rfl

@[simp] theorem State.rebuiltAs_inputs (s : State) (c : StratCode) : (s.rebuiltAs c).inputs = s.inputs := by
  unfold State.rebuiltAs
  split <;> rfl

@[simp] theorem State.rebuiltAs_latency (s : State) (c : StratCode) : (s.rebuiltAs c).latency = s.latency := by
  unfold State.rebuiltAs
  split
  · rfl
  · simp [UnitState.latency]

/-- Another strategy is another instance, with nothing in flight (R21, R29). -/
theorem State.rebuiltAs_inFlight_of_ne {s : State} {c : StratCode} (h : s.strat ≠ c) :
    (s.rebuiltAs c).inFlight = List.replicate s.latency none := by
  simp [State.rebuiltAs, h]

@[simp] theorem State.presentRequest_strat (s : State) (w : Request) :
    (s.presentRequest w).strat = stratField w := by simp [State.presentRequest]
@[simp] theorem State.presentRequest_inputs (s : State) (w : Request) :
    (s.presentRequest w).inputs = ⟨false, true, operandField w⟩ :: s.inputs := rfl
@[simp] theorem State.presentRequest_inFlight (s : State) (w : Request) :
    (s.presentRequest w).inFlight = (s.rebuiltAs (stratField w)).inFlight := rfl
@[simp] theorem State.presentRequest_advanceInputs (s : State) (w : Request) :
    (s.presentRequest w).advanceInputs.builtWith (stratField w) = s.rebuiltAs (stratField w) := by
  unfold State.rebuiltAs State.presentRequest State.rebuiltAs
  split
  next h => rw [← h]; rfl
  next => rfl

end Sys2Proof.Machine
end

