-- ==== Sys2Proof/Laws/Ops.lean ====
section
/-! SUPPORT. What each shared operation does, said once: the cycle, acceptance, reset, and the ladder. -/

namespace Sys2Proof.Machine

/-! ### Presenting an output -/

@[simp] theorem present_inputs (due : Option InFlight) (u : UnitState) : (present due u).inputs = u.inputs := by
  cases due <;> rfl

@[simp] theorem present_inFlight (due : Option InFlight) (u : UnitState) :
    (present due u).inFlight = u.inFlight := by
  cases due <;> rfl

theorem present_presents (due : Option InFlight) (u : UnitState) : (present due u).Presents due := by
  cases due <;> simp [UnitState.Presents, present, outValid]

/-- A free value is used exactly when nothing is due (R27). -/
theorem present_drawCount (due : Option InFlight) (u : UnitState) :
    (present due u).drawCount = u.drawCount + (if due.isSome then 0 else 1) := by
  cases due <;> rfl

theorem present_none_out (u : UnitState) : (present none u).out = ⟨false, Config.draw u.drawCount⟩ := rfl

/-! ### One cycle -/

@[simp] theorem clockCycle_inputs (a : Option InFlight) (u : UnitState) : (clockCycle a u).inputs = u.inputs := by
  simp [clockCycle]

@[simp] theorem clockCycle_latency (a : Option InFlight) (u : UnitState) :
    (clockCycle a u).latency = u.latency := by
  simp [clockCycle, UnitState.latency]

/-- The slots after a cycle: the first is taken and the accepted operation is the last (R26, R28). -/
theorem clockCycle_inFlight (a : Option InFlight) (u : UnitState) :
    (clockCycle a u).inFlight = (u.inFlight ++ [a]).tail := by
  simp [clockCycle]

theorem clockCycle_presents (a : Option InFlight) (u : UnitState) :
    (clockCycle a u).Presents ((u.inFlight ++ [a]).headD none) := present_presents ..

/-- A cycle uses one free value when nothing is due in it, and none otherwise. -/
theorem clockCycle_drawCount (a : Option InFlight) (u : UnitState) :
    (clockCycle a u).drawCount =
      u.drawCount + (if ((u.inFlight ++ [a]).headD none).isSome then 0 else 1) := present_drawCount ..

/-- A cycle that presents nothing shows the unit's next free value on `out_r` (R27). -/
theorem clockCycle_out_of_none_due (a : Option InFlight) (u : UnitState)
    (h : (u.inFlight ++ [a]).headD none = none) :
    (clockCycle a u).out = ⟨false, Config.draw u.drawCount⟩ := by
  simp only [clockCycle, h]
  rfl

/-- All that a cycle of an instance's unit does to the instance. -/
theorem clockCycle_effect (a : Option InFlight) (u : UnitState) (c : StratCode) :
    CycleEffect (u.builtWith c) ((clockCycle a u).builtWith c) a where
  strat := rfl
  combinational h := by
    have hp := clockCycle_presents a u
    have hi := clockCycle_inFlight a u
    rw [show u.inFlight = [] from h] at hp hi
    exact ⟨hi, hp⟩
  pipelined due later h := by
    have hp := clockCycle_presents a u
    have hi := clockCycle_inFlight a u
    rw [show u.inFlight = due :: later from h] at hp hi
    exact ⟨hi, hp⟩

/-- Acceptance always has a next state, and it is one cycle's (R25, R57). -/
theorem acceptOperation_next (v r : Word) (s : State) :
    ∃ t, acceptOperation v r s = .next t ∧ t.inputs = s.inputs ∧ CycleEffect s t (some ⟨v, r⟩) :=
  ⟨_, rfl, clockCycle_inputs .., clockCycle_effect ..⟩

/-- An executed operation leaves the instance's `STRAT` (R21), and always has a next state (R57). -/
theorem exec_next_builtWith (i : Instr) (s : State) : ∃ u : UnitState, exec i s = .next (u.builtWith s.strat) := by
  cases i
  case estRef v =>
    simp only [exec, execEstRef]
    split <;> exact ⟨_, rfl⟩
  all_goals exact ⟨_, rfl⟩

/-! ### Idle and reset cycles -/

@[simp] theorem idleCycle_inputs (u : UnitState) : (idleCycle u).inputs = u.inputs := clockCycle_inputs ..
@[simp] theorem idleCycle_latency (u : UnitState) : (idleCycle u).latency = u.latency := clockCycle_latency ..

theorem idleCycle_effect (u : UnitState) (c : StratCode) :
    CycleEffect (u.builtWith c) ((idleCycle u).builtWith c) none := clockCycle_effect ..

@[simp] theorem resetCycle_inputs (u : UnitState) : (resetCycle u).inputs = u.inputs := by simp [resetCycle]
@[simp] theorem resetCycle_out (u : UnitState) : (resetCycle u).out = (idleCycle u).out := rfl
@[simp] theorem resetCycle_drawCount (u : UnitState) : (resetCycle u).drawCount = (idleCycle u).drawCount := rfl

/-- A reset edge leaves as many slots as there were, all empty (R96). -/
@[simp] theorem resetCycle_inFlight (u : UnitState) :
    (resetCycle u).inFlight = List.replicate u.latency none := by
  have h : (idleCycle u).inFlight.length = u.latency := idleCycle_latency u
  simp [resetCycle, h]

@[simp] theorem resetCycle_latency (u : UnitState) : (resetCycle u).latency = u.latency := by
  simp [UnitState.latency]

/-! ### The ladder of comparators -/

/-- A ladder answers the result of the first rung the operand reaches, or the bottom when it reaches none. -/
theorem ladder_cases (rungs : List (Nat × Int)) (bottom : Int) (v : Nat) :
    ((∀ x ∈ rungs, v < x.1) ∧ ladder rungs bottom v = bottom) ∨
    ∃ above x below, rungs = above ++ x :: below ∧ (∀ y ∈ above, v < y.1) ∧ x.1 ≤ v ∧
      ladder rungs bottom v = x.2 := by
  induction rungs with
  | nil => exact .inl ⟨by simp, rfl⟩
  | cons x rungs ih =>
    by_cases hx : x.1 ≤ v
    · exact .inr ⟨[], x, rungs, rfl, by simp, hx, by simp [ladder, hx]⟩
    · have hstep : ladder (x :: rungs) bottom v = ladder rungs bottom v := by simp [ladder, hx]
      rcases ih with ⟨hall, hb⟩ | ⟨above, y, below, rfl, hab, hy, hr⟩
      · exact .inl ⟨by simpa using ⟨by omega, fun a b hab => hall (a, b) hab⟩, hstep.trans hb⟩
      · refine .inr ⟨x :: above, y, below, rfl, ?_, hy, hstep.trans hr⟩
        simpa using ⟨by omega, fun a b hab' => hab (a, b) hab'⟩

end Sys2Proof.Machine
end

