-- ==== Sys2Proof/Laws/Step.lean ====
section
/-! SUPPORT. The decoder on a request word, and the inversion lemma of the step. -/

namespace Sys2Proof

@[simp] theorem operandField_requestWord (s : StratCode) (v : Word) : operandField (requestWord s v) = v :=
  BitVec.extractLsb'_append_eq_right

@[simp] theorem stratField_requestWord (s : StratCode) (v : Word) : stratField (requestWord s v) = s :=
  BitVec.extractLsb'_append_eq_left

/-- A request word read as a number (R43). -/
theorem requestWord_toNat (s : StratCode) (v : Word) :
    (requestWord s v).toNat = s.toNat * 2 ^ 32 + v.toNat := by
  have h : (requestWord s v).toNat = s.toNat <<< 32 ||| v.toNat := BitVec.toNat_append ..
  rw [h, ← Nat.shiftLeft_add_eq_or_of_lt v.isLt, Nat.shiftLeft_eq]

/-- A request word is its two fields (R43). -/
theorem requestWord_fields (w : Request) : requestWord (stratField w) (operandField w) = w := by
  apply BitVec.eq_of_toNat_eq
  rw [requestWord_toNat]
  simp only [stratField, operandField, BitVec.extractLsb'_toNat, Nat.shiftRight_eq_div_pow]
  have := w.isLt
  omega

/-- The table's mask keeps the strategy code and clears the operand (R50). -/
theorem requestWord_masked (s : StratCode) (v : Word) : requestWord s v &&& 0x700000000 = requestWord s 0 := by
  have h7 : (0x700000000 : Request) = (7 : StratCode) ++ (0 : Word) := by decide
  have hs : s &&& 7 = s := by revert s; decide
  have hv : v &&& 0 = 0 := BitVec.and_zero
  have h := BitVec.and_append (x₁ := s) (x₂ := 7) (y₁ := v) (y₂ := 0)
  rw [hs, hv] at h
  rw [h7]
  exact h

theorem stratCode_cases (s : StratCode) :
    s = 0 ∨ s = 1 ∨ s = 2 ∨ s = 3 ∨ s = 4 ∨ s = 5 ∨ s = 6 ∨ s = 7 := by
  revert s; decide

/-- The decoder, code by code (R49, R51). -/
theorem decodeRequest_requestWord (s : StratCode) (v : Word) : decodeRequest (requestWord s v) =
    if s = 0 then .ok (.estRef v) else if s = 1 then .ok (.estTbb v) else if s = 2 then .ok (.estTub v)
    else if s = 3 then .ok (.estBmh v) else if s = 4 then .ok (.estBmc v) else if s = 5 then .ok (.estDec v)
    else .error .reservedStrat := by
  simp only [decodeRequest, opcodeTable, List.find?, requestWord_masked, operandField_requestWord]
  rcases stratCode_cases s with rfl | rfl | rfl | rfl | rfl | rfl | rfl | rfl <;> rfl

/-- A request word of a legal build decodes, to an operation of that build's strategy (R50, R52). -/
theorem decodeRequest_of_legal {s : StratCode} (h : legalStrat s = true) (v : Word) :
    ∃ i, decodeRequest (requestWord s v) = .ok i ∧ i.strat = s ∧ i.operand = v := by
  rw [decodeRequest_requestWord]
  rcases stratCode_cases s with rfl | rfl | rfl | rfl | rfl | rfl | rfl | rfl
  all_goals first | exact absurd h (by decide) | exact ⟨_, rfl, rfl, rfl⟩

theorem decodeRequest_of_reserved {s : StratCode} (h : legalStrat s = false) (v : Word) :
    decodeRequest (requestWord s v) = .error .reservedStrat := by
  rw [decodeRequest_requestWord]
  rcases stratCode_cases s with rfl | rfl | rfl | rfl | rfl | rfl | rfl | rfl
  all_goals first | rfl | exact absurd h (by decide)

namespace Machine

/-- The step relation once the request word is decoded. -/
theorem stepUnit_of_decoded {c : StratCode} {u : UnitState} {i : Instr} (h : decodeRequest (u.request c) = .ok i) :
    ∃ v : UnitState, stepUnit c u = .next v ∧
      ((u.resetting = true ∧ v = resetCycle u.advanceInputs) ∨
       (u.resetting = false ∧ u.currentInputs.inValid = true ∧
          exec i (u.advanceInputs.builtWith c) = .next (v.builtWith c)) ∨
       (u.resetting = false ∧ u.currentInputs.inValid = false ∧ v = idleCycle u.advanceInputs)) := by
  obtain ⟨v, hv⟩ := exec_next_builtWith i (u.advanceInputs.builtWith c)
  cases hr : u.resetting <;> cases hi : u.currentInputs.inValid
  · exact ⟨_, by simp [stepUnit, h, hr, hi], .inr (.inr ⟨rfl, rfl, rfl⟩)⟩
  · exact ⟨v, by simp [stepUnit, h, hr, hi, hv], .inr (.inl ⟨rfl, rfl, hv⟩)⟩
  · exact ⟨_, by simp [stepUnit, h, hr], .inl ⟨rfl, rfl⟩⟩
  · exact ⟨_, by simp [stepUnit, h, hr], .inl ⟨rfl, rfl⟩⟩

/-- A step of an instance whose request word decodes: a reset edge, an accepted operation, or an idle cycle. -/
theorem step_of_decoded {s : State} {i : Instr} (h : decodeRequest (s.request s.strat) = .ok i) :
    step s = if s.resetting then .next ((resetCycle s.advanceInputs).builtWith s.strat)
      else if s.currentInputs.inValid then exec i (s.advanceInputs.builtWith s.strat)
      else .next ((idleCycle s.advanceInputs).builtWith s.strat) := by
  obtain ⟨v, hv, ⟨hr, rfl⟩ | ⟨hr, hi, he⟩ | ⟨hr, hi, rfl⟩⟩ := stepUnit_of_decoded h
  · simp [step, hv, hr]
  · simp [step, hv, hr, hi, he]
  · simp [step, hv, hr, hi]

/-- Everything a step with a next state can have been. -/
theorem step_cases {s t : State} (h : step s = .next t) :
    ∃ i, decodeRequest (s.request s.strat) = .ok i ∧
      ((s.resetting = true ∧ t = (resetCycle s.advanceInputs).builtWith s.strat) ∨
       (s.resetting = false ∧ s.currentInputs.inValid = true ∧
          exec i (s.advanceInputs.builtWith s.strat) = .next t) ∨
       (s.resetting = false ∧ s.currentInputs.inValid = false ∧
          t = (idleCycle s.advanceInputs).builtWith s.strat)) := by
  cases hd : decodeRequest (s.request s.strat) with
  | error e => simp [step, stepUnit, hd] at h
  | ok i =>
    rw [step_of_decoded hd] at h
    refine ⟨i, rfl, ?_⟩
    split at h
    next hr => exact .inl ⟨hr, (Host.Outcome.next.inj h).symm⟩
    next hr =>
      split at h
      next hv => exact .inr (.inl ⟨by simpa using hr, hv, h⟩)
      next hv => exact .inr (.inr ⟨by simpa using hr, by simpa using hv, (Host.Outcome.next.inj h).symm⟩)

end Machine

end Sys2Proof
end

