-- ==== Sys2Proof/Laws/PerInstr.lean ====
section
/-! SUPPORT. What is said of each operation as syntax: the row of the opcode table it belongs to (R50). -/

namespace Sys2Proof.Laws.RowOfTable

/-- The operation's request word belongs to a row of the opcode table and to no other, and that row makes the operation
again from the word's operand. -/
def Statement (i : Instr) : Prop :=
  ∃ row ∈ opcodeTable, encode i &&& row.mask = row.pattern ∧ row.make (operandField (encode i)) = i ∧
    ∀ other ∈ opcodeTable, encode i &&& other.mask = other.pattern → other.mnemonic = row.mnemonic

/-- Every row masks the strategy code (R50). -/
theorem row_mask : ∀ row ∈ opcodeTable, row.mask = 0x700000000 := by decide

/-- A row whose pattern is the operation's code, and which makes the operation from its operand, is its row. -/
theorem statement_of_row {i : Instr} (row : OpcodeRow) (k : Nat) (hk : opcodeTable[k]? = some row)
    (hpattern : requestWord i.strat 0 = row.pattern) (hmake : row.make i.operand = i)
    (hother : ∀ other ∈ opcodeTable, requestWord i.strat 0 = other.pattern → other.mnemonic = row.mnemonic) :
    Statement i := by
  have hrow : row ∈ opcodeTable := List.mem_of_getElem? hk
  have hmasked : encode i &&& 0x700000000 = requestWord i.strat 0 := requestWord_masked ..
  refine ⟨row, hrow, ?_, ?_, fun other ho h => hother other ho ?_⟩
  · rw [row_mask row hrow, hmasked, hpattern]
  · rw [encode, operandField_requestWord, hmake]
  · rw [row_mask other ho, hmasked] at h
    exact h

theorem estRef (v : Word) : Statement (.estRef v) :=
  statement_of_row ⟨"EST.REF", 0x000000000, 0x700000000, .estRef⟩ 0 rfl (by simp only [Instr.strat]; decide) rfl
    (by simp only [Instr.strat]; decide)

theorem estTbb (v : Word) : Statement (.estTbb v) :=
  statement_of_row ⟨"EST.TBB", 0x100000000, 0x700000000, .estTbb⟩ 1 rfl (by simp only [Instr.strat]; decide) rfl
    (by simp only [Instr.strat]; decide)

theorem estTub (v : Word) : Statement (.estTub v) :=
  statement_of_row ⟨"EST.TUB", 0x200000000, 0x700000000, .estTub⟩ 2 rfl (by simp only [Instr.strat]; decide) rfl
    (by simp only [Instr.strat]; decide)

theorem estBmh (v : Word) : Statement (.estBmh v) :=
  statement_of_row ⟨"EST.BMH", 0x300000000, 0x700000000, .estBmh⟩ 3 rfl (by simp only [Instr.strat]; decide) rfl
    (by simp only [Instr.strat]; decide)

theorem estBmc (v : Word) : Statement (.estBmc v) :=
  statement_of_row ⟨"EST.BMC", 0x400000000, 0x700000000, .estBmc⟩ 4 rfl (by simp only [Instr.strat]; decide) rfl
    (by simp only [Instr.strat]; decide)

theorem estDec (v : Word) : Statement (.estDec v) :=
  statement_of_row ⟨"EST.DEC", 0x500000000, 0x700000000, .estDec⟩ 5 rfl (by simp only [Instr.strat]; decide) rfl
    (by simp only [Instr.strat]; decide)

end Sys2Proof.Laws.RowOfTable
end

