-- ==== Sys2Proof/Tests/Slice0.lean ====
section
/-! SUPPORT. Tests against the spec's own examples, and for each statement a state or operand that meets its hypotheses.
Expected results are those of spec/95_test_vectors.md and of the rules' corner cases, never the model's own answers. -/

namespace Sys2Proof.Tests

open Sys2Proof Sys2Proof.Machine

/-- An instance built and reset, with inputs to come. -/
def presented (strat : StratCode) (latency : Nat) (inputs : List Inputs) : State :=
  { State.built strat latency with inputs := inputs }

/-- The outputs of the cycle an outcome ends. -/
def shown : Host.Outcome State Fault Refusal → Option Outputs
  | .next t => some t.out
  | .fault _ => none
  | .refused _ => none

/-- The slots after the cycle an outcome ends. -/
def slots : Host.Outcome State Fault Refusal → Option (List (Option InFlight))
  | .next t => some t.inFlight
  | .fault _ => none
  | .refused _ => none

/-- The operation a decoder answers. -/
def decoded (d : Except DecodeError Instr) : Option Instr := d.toOption

/-! ### WellFormed: the one check, and the ill-formed terms it refuses (95_test_vectors.md §2.7) -/

theorem test_strat_5_is_legal : legalStrat 5 = true := by decide
theorem test_strat_6_is_refused : legalStrat 6 = false := by decide
theorem test_strat_7_is_refused : legalStrat 7 = false := by decide

/-! ### Decoding: words written out from R43 and R49, a code of three bits and 32 bits of operand -/

theorem test_decode_ref : decoded (decodeRequest 0b000_00000000000000000000010000000000) = some (.estRef 1024) := by
  decide
theorem test_decode_tbb : decoded (decodeRequest 0b001_00000000000000010010001101000101) = some (.estTbb 0x12345) := by
  decide
theorem test_decode_tub : decoded (decodeRequest 0b010_00000000100000000000000000000000) = some (.estTub 0x800000) := by
  decide
theorem test_decode_bmh : decoded (decodeRequest 0b011_10000000000000000000000000000000) = some (.estBmh 0x80000000) := by
  decide
theorem test_decode_bmc : decoded (decodeRequest 0b100_11111111111111111111111111111111) = some (.estBmc 0xFFFFFFFF) := by
  decide
theorem test_decode_dec : decoded (decodeRequest 0b101_00000000000000000000001111101000) = some (.estDec 1000) := by
  decide
theorem test_decode_code_6 : decodeRequest 0b110_00000000000000000000000000000001 = .error .reservedStrat := by rfl
theorem test_decode_code_7 : decodeRequest 0b111_00000000000000000000000000000000 = .error .reservedStrat := by rfl
theorem test_decode_four_bytes : decode [1, 2, 3, 4] = .error .truncated := by rfl
theorem test_decode_bit_35 : decode [0, 0, 0, 0, 0x08] = .error .notARequestWord := by rfl
theorem test_decode_bytes : decode [0x15, 0xCD, 0x5B, 0x07, 0x05, 0xAA] = .ok (.estDec 123456789, [0xAA]) := by rfl
theorem test_encode_program_1 : encode (.estTbb 0x00012345) = 0x100012345 := by decide
theorem test_table_word : decodeTableWord 40 0x700F00000 = none ∧ decodeTableWord 40 0x300F00000 = some (.estBmh 0xF00000) ∧
    decodeTableWord 40 0x800000000 = none := by decide
theorem test_opcode_table : opcodeTable.map (fun row => (row.mnemonic, row.pattern.toNat / 2 ^ 32)) =
    [("EST.REF", 0), ("EST.TBB", 1), ("EST.TUB", 2), ("EST.BMH", 3), ("EST.BMC", 4), ("EST.DEC", 5)] := by decide
theorem test_opcode_rows_do_not_overlap :
    opcodeTable.Pairwise fun a b => a.pattern &&& (a.mask &&& b.mask) ≠ b.pattern &&& (a.mask &&& b.mask) := by decide

/-! ### One operation of each strategy on the combinational instance (95_test_vectors.md §2, §3) -/

theorem test_ref_thresholds : shown (exec (.estRef 3584912846) State.reset) = some ⟨true, 21⟩ ∧
    shown (exec (.estRef 3584912847) State.reset) = some ⟨true, 22⟩ := by decide
theorem test_ref_zero_is_a_free_value : shown (exec (.estRef 0) State.reset) =
    some ⟨true, Config.draw State.reset.drawCount⟩ := by rfl
theorem test_tbb_arms : shown (exec (.estTbb 0x00FF0000) State.reset) = some ⟨true, 23⟩ ∧
    shown (exec (.estTbb 0x80000001) State.reset) = some ⟨true, 31⟩ := by decide
theorem test_tbb_sentinel : shown (exec (.estTbb 0) State.reset) = some ⟨true, 0xFFFFFFFF⟩ := by decide
theorem test_tub_example : shown (exec (.estTub 0x00800000) State.reset) = some ⟨true, 23⟩ := by decide
theorem test_tub_sentinel : shown (exec (.estTub 0) State.reset) = some ⟨true, 0xFFFFFFFF⟩ := by decide
theorem test_bmh_stages : shown (exec (.estBmh 0x00F00000) State.reset) = some ⟨true, 23⟩ := by decide
theorem test_bmh_zero : shown (exec (.estBmh 0) State.reset) = some ⟨true, 0⟩ := by decide
theorem test_bmc_final_stage : shown (exec (.estBmc 2) State.reset) = some ⟨true, 1⟩ ∧
    shown (exec (.estBmc 0xFFFFFFFF) State.reset) = some ⟨true, 31⟩ := by decide
theorem test_bmc_zero : shown (exec (.estBmc 0) State.reset) = some ⟨true, 0⟩ := by decide
theorem test_dec_thresholds : shown (exec (.estDec 999999999) State.reset) = some ⟨true, 8⟩ ∧
    shown (exec (.estDec 1000000000) State.reset) = some ⟨true, 9⟩ := by decide
theorem test_dec_zero : shown (exec (.estDec 0) State.reset) = some ⟨true, 0⟩ := by decide

/-! ### One cycle of the pipelined instance of 95_test_vectors.md Program 2 (EST.BMC, LATENCY 2) -/

/-- Cycle 0: reset wins over the operand presented with it (R85, R96). -/
theorem test_reset_wins : slots (step (presented 4 2 [⟨true, true, 5⟩])) = some [none, none] := by decide

/-- Cycle 1: the operand is accepted and is due two cycles on. -/
theorem test_accepted_is_due_in_latency :
    slots (step (presented 4 2 [⟨false, true, 2⟩])) = some [none, some ⟨2, 1⟩] := by decide

/-- Cycle 4: a result is delivered in the cycle in which another operand is accepted (R85). -/
theorem test_delivery_and_acceptance :
    (let s := { presented 4 2 [⟨false, true, 0⟩] with inFlight := [some ⟨0x10000, 16⟩, none] }
     (shown (step s), slots (step s))) = (some ⟨true, 16⟩, some [none, some ⟨0, 0⟩]) := by decide

/-- An operation due in the cycle that ends at a reset edge is still delivered in it; the one behind it is discarded. -/
theorem test_due_before_reset_edge :
    (let s := { presented 4 2 [⟨true, true, 7⟩] with inFlight := [some ⟨0x10000, 16⟩, some ⟨2, 1⟩] }
     (shown (step s), slots (step s))) = (some ⟨true, 16⟩, some [none, none]) := by decide

/-- A combinational instance has no `rst` (R96). -/
theorem test_combinational_has_no_reset :
    shown (step (presented 1 0 [⟨true, true, 0x3FF⟩])) = some ⟨true, 9⟩ := by decide

theorem test_idle_shows_a_free_value :
    shown (step (presented 1 0 [])) = some ⟨false, Config.draw 1⟩ := by rfl

theorem test_reserved_build_is_refused : step (presented 6 1 []) = .refused .reservedStrat := by rfl

/-- A word of another strategy is another instance: what was in flight stays in the first one (R21). -/
theorem test_another_strategy_is_another_instance :
    slots (step (({ presented 1 1 [] with inFlight := [some ⟨1023, 9⟩] } : State).withFetchWord 40 0x5000003E8)) =
      some [some ⟨1000, 3⟩] := by decide

/-- A word of the instance's own strategy leaves what is in flight. -/
theorem test_same_strategy_is_same_instance :
    (let t := step (({ presented 5 1 [] with inFlight := [some ⟨999, 2⟩] } : State).withFetchWord 40 0x5000003E8)
     (shown t, slots t)) = (some ⟨true, 2⟩, some [some ⟨1000, 3⟩]) := by decide

theorem test_fetched_word_runs : shown (step (State.reset.withFetchWord 40 0x5000003E8)) = some ⟨true, 3⟩ := by decide

/-! ### Witnesses: for each statement with hypotheses, a state or operand that meets them all -/

/-- DecoderSelectsRowByStrategyCode: the last legal code, and the first reserved one. -/
theorem witness_codes : ((0x5FFFFFFFF : Request).extractLsb 34 32).toNat = 5 ∧
    ((0x600000000 : Request).extractLsb 34 32).toNat = 6 := by decide

/-- DecodeAndEncodeAgree, second part. -/
theorem witness_bytes_decode : decode [0, 0, 0xF0, 0, 3] = .ok (.estBmh 0xF00000, []) := by rfl

/-- FetchedTableWordRuns: a word of the instance's own strategy, and one of another. -/
theorem witness_table_word : decodeTableWord 40 0x5FFFFFFFF = some (.estDec 0xFFFFFFFF) ∧
    (Instr.estDec 0xFFFFFFFF).strat = (presented 5 1 []).strat ∧
    (Instr.estDec 0xFFFFFFFF).strat ≠ State.reset.strat := by decide

/-- ResultEncodingIsTwosComplement: both ends of the range, and a result the contract fixes. -/
theorem witness_result_range : (-2 ^ 31 ≤ (-2147483648 : Int) ∧ (-2147483648 : Int) ≤ 2 ^ 31 - 1) ∧
    (-2 ^ 31 ≤ (2147483647 : Int) ∧ (2147483647 : Int) ≤ 2 ^ 31 - 1) ∧
    contractResult (.estTbb 0) = some (-1) := by decide

/-- StepRunsDecodedOperation, with `LATENCY` 2 and with `LATENCY` 0, where `rst` is not looked at. -/
theorem witness_accepting :
    (presented 4 2 [⟨false, true, 2⟩]).inputs = ⟨false, true, 2⟩ :: [] ∧
    (0 < (presented 4 2 [⟨false, true, 2⟩]).latency → (⟨false, true, 2⟩ : Inputs).rst = false) ∧
    decodeRequest (requestWord (presented 4 2 []).strat 2) = .ok (.estBmc 2) ∧
    (0 < (presented 4 0 [⟨true, true, 2⟩]).latency → (⟨true, true, 2⟩ : Inputs).rst = false) :=
  ⟨rfl, by decide, rfl, by decide⟩

/-- IdleCycleAcceptsNothing. -/
theorem witness_idle : (presented 4 2 [⟨false, false, 9⟩]).Built ∧
    ((presented 4 2 [⟨false, false, 9⟩]).inputAt 0).inValid = false ∧
    ¬ (presented 4 2 [⟨false, false, 9⟩]).ResetsAt 0 := by
  refine ⟨rfl, rfl, ?_⟩
  simp [UnitState.ResetsAt, UnitState.inputAt, presented]

/-- ResetDiscardsEverythingInFlight: both clauses, and a later cycle in which nothing accepted is due yet. -/
theorem witness_reset : (presented 4 2 [⟨true, true, 5⟩]).Built ∧ 0 < (presented 4 2 [⟨true, true, 5⟩]).latency ∧
    (presented 4 2 [⟨true, true, 5⟩]).inputs = ⟨true, true, 5⟩ :: [] ∧
    (presented 4 0 [⟨true, true, 5⟩]).latency = 0 ∧
    ∀ m, m + (presented 4 2 [⟨false, true, 2⟩]).latency ≤ 1 → ¬ (presented 4 2 [⟨false, true, 2⟩]).AcceptsAt m := by
  refine ⟨rfl, by decide, rfl, rfl, fun m hm => ?_⟩
  simp [UnitState.latency, presented, State.built] at hm

/-- ResultAppearsLatencyCyclesAfterAcceptance: a legal build, an accepted operand and no reset edge before it is due. -/
theorem witness_accepted : (presented 4 2 [⟨false, true, 2⟩]).Built ∧ (presented 4 2 [⟨false, true, 2⟩]).AcceptsAt 0 ∧
    ∀ j, 0 < j → j < 2 → ¬ (presented 4 2 [⟨false, true, 2⟩]).ResetsAt j := by
  refine ⟨rfl, by simp [UnitState.AcceptsAt, UnitState.ResetsAt, UnitState.inputAt, presented], fun j h1 h2 => ?_⟩
  have hj : j = 1 := by omega
  subst hj
  simp [UnitState.ResetsAt, UnitState.inputAt, presented, Inputs.idle]

/-- InFlightOperationAppearsWhenDue, at the last slot. -/
theorem witness_in_flight : ({ presented 4 2 [] with inFlight := [none, some ⟨2, 1⟩] } : State).Built ∧
    1 < ({ presented 4 2 [] with inFlight := [none, some ⟨2, 1⟩] } : State).latency ∧
    ({ presented 4 2 [] with inFlight := [none, some ⟨2, 1⟩] } : State).inFlight[1]? = some (some ⟨2, 1⟩) := by
  refine ⟨rfl, by decide, rfl⟩

/-- ResultsComeInAcceptanceOrder. -/
theorem witness_order : (presented 4 2 [⟨false, true, 2⟩, ⟨false, true, 4⟩]).Built ∧
    (∀ op, some op ∉ (presented 4 2 [⟨false, true, 2⟩, ⟨false, true, 4⟩]).inFlight) ∧
    ∀ n, ¬ (presented 4 2 [⟨false, true, 2⟩, ⟨false, true, 4⟩]).ResetsAt n := by
  refine ⟨rfl, by simp [presented, State.built], fun n => ?_⟩
  match n with
  | 0 => simp [UnitState.ResetsAt, UnitState.inputAt, presented]
  | 1 => simp [UnitState.ResetsAt, UnitState.inputAt, presented]
  | n + 2 => simp [UnitState.ResetsAt, UnitState.inputAt, presented, Inputs.idle]

/-- CombinationalInstanceAnswersAtOnce. -/
theorem witness_combinational : (presented 1 0 [⟨false, true, 9⟩]).Built ∧ (presented 1 0 [⟨false, true, 9⟩]).latency = 0 :=
  ⟨rfl, rfl⟩

/-- StepKeepsSound: a sound state with an operation in flight, and the next state of its step. -/
theorem witness_sound : ({ presented 1 1 [] with inFlight := [some ⟨1023, 9⟩] } : State).Sound ∧
    ∃ t, step { presented 1 1 [] with inFlight := [some ⟨1023, 9⟩] } = .next t := by
  refine ⟨⟨rfl, ?_, by simp [presented, State.built]⟩, _, rfl⟩
  intro op hop i hi r hr
  have hop' : op = ⟨1023, 9⟩ := by simpa using hop
  subst hop'
  have hd : decodeRequest (requestWord (presented 1 1 []).strat 1023) = .ok (.estTbb 1023) := rfl
  have hi' : i = .estTbb 1023 := by simpa [eq_comm] using hd.symm.trans hi
  subst hi'
  have hc : contractResult (.estTbb 1023) = some 9 := by decide
  rw [hc] at hr
  cases hr
  decide

/-- ResetIsSound. -/
theorem witness_legal_build : legalStrat 5 = true := rfl

/-- StratAndLatencyNeverChange, OperationFrame and FreeValuesAreFresh: a step and an execution with a next state, the
step's presenting nothing. -/
theorem witness_next : (∃ t, step (presented 4 2 []) = .next t ∧ t.out.valid = false) ∧
    ∃ t, exec (.estDec 7) (presented 5 1 []) = .next t := ⟨⟨_, rfl, rfl⟩, _, rfl⟩

/-- StratIsParameterOfStepRelation: a cycle of the unit's step relation and an execution, each with a next state. -/
theorem witness_unit_step : (∃ u, stepUnit 4 (presented 4 2 []).toUnitState = .next u) ∧
    (∃ t, step ((presented 4 2 []).toUnitState.builtWith 4) = .next t) ∧
    ∃ t, exec (.estBmc 2) ((presented 4 2 []).toUnitState.builtWith 4) = .next t := ⟨⟨_, rfl⟩, ⟨_, rfl⟩, _, rfl⟩

/-- OnlyReservedStratIsRefused: the boundary codes. -/
theorem witness_strat_boundary : 6 ≤ (presented 6 1 []).strat.toNat ∧ (presented 5 1 []).strat.toNat ≤ 5 := by decide

/-- OperationDeliversContractResult: each strategy has a fixed result, at the ends of its operand range. -/
theorem witness_contract : contractResult (.estRef 1) = some 0 ∧ contractResult (.estTub 0) = some (-1) ∧
    contractResult (.estBmh 0xFFFFFFFF) = some 31 ∧ contractResult (.estBmc 0xFFFFFFFF) = some 31 ∧
    contractResult (.estTbb 0xFFFFFFFF) = some 31 ∧ contractResult (.estDec 0xFFFFFFFF) = some 9 := by decide

/-- BaseTwoStrategiesGiveFloorLog2, BaseTwoStrategiesAgree, ResultsAreMonotone, ReferenceIsTruncatedNaturalLogarithm,
ReferenceIsThresholdLadder, ReferenceBracketsOperandByPowersOfE and DecimalGivesFloorLog10: operands at the ends. -/
theorem witness_operands : 1 ≤ (1 : Word).toNat ∧ 1 ≤ (0xFFFFFFFF : Word).toNat ∧
    (1 : Word).toNat ≤ (0xFFFFFFFF : Word).toNat := by decide

/-- ReferenceIsThresholdLadder: the ends of the range of `k`. -/
theorem witness_thresholds : (1 ≤ 1 ∧ 1 ≤ 22) ∧ (1 ≤ 22 ∧ 22 ≤ 22) := by decide

/-- ResultsDoNotDependOnHistory: two instances that hold different things, of a strategy other than EST.REF; and
EST.REF with a requester that avoids zero. -/
theorem witness_histories :
    (presented 1 1 [⟨false, true, 0⟩]).Built ∧
    (presented 1 1 [⟨false, true, 0⟩]).latency =
      ({ presented 1 1 [⟨false, true, 0⟩] with inFlight := [some ⟨1023, 9⟩] } : State).latency ∧
    (presented 1 1 [⟨false, true, 0⟩]).strat ≠ 0 ∧
    (presented 0 1 [⟨false, true, 3⟩]).Built ∧ AvoidsZero (presented 0 1 [⟨false, true, 3⟩]).inputs ∧
    (presented 0 1 [⟨false, true, 3⟩]).latency ≤ 1 := by
  refine ⟨rfl, rfl, by decide, rfl, ?_, by decide⟩
  simp [AvoidsZero, presented]

/-- TableHoldsFloorLog2: the last index, and the ends of the last range. -/
theorem witness_table_range : (255 : BitVec 8) ≠ 0 ∧ 2 ^ 7 ≤ (128 : BitVec 8).toNat ∧ (255 : BitVec 8).toNat < 2 ^ (7 + 1) := by
  decide

/-- TableIndexIsInRange, HalvingShiftsOperandToOne and CascadeNeedsFinalStage: operands at the ends, and the one operand
that reads the sentinel. -/
theorem witness_lookup : 4294967295 < 2 ^ 32 ∧ (tbbLookup 0).index = 0 ∧ Nat.log2 2 % 2 = 1 ∧ Nat.log2 4 % 2 = 0 := by
  decide

/-- PlatformInstancesAreIndependent: a platform of two instances of different builds. -/
theorem witness_platform : (0 : Nat) ≠ 1 ∧
    ([presented 5 0 [], presented 0 3 []] : Platform)[0]? = some (presented 5 0 []) ∧
    ([presented 5 0 [], presented 0 3 []] : Platform)[1]? = some (presented 0 3 []) ∧
    (presented 5 0 []).Built ∧ (presented 0 3 []).Built := ⟨by decide, rfl, rfl, rfl, rfl⟩

end Sys2Proof.Tests
end

/-! ## What one cycle does, and what a run shows (spec/10_state.md §4, §5) -/

namespace Sys2Proof.Machine

/-! ### The input signals -/

theorem UnitState.currentInputs_eq_inputAt_zero (u : UnitState) : u.currentInputs = u.inputAt 0 := by
  unfold currentInputs inputAt
  cases u.inputs <;> rfl

theorem UnitState.resetting_iff (u : UnitState) : u.resetting = true ↔ u.ResetsAt 0 := by
  simp [resetting, ResetsAt, currentInputs_eq_inputAt_zero]

/-- Once a cycle's inputs are taken, the input signals are those of one cycle on. -/
theorem UnitState.inputAt_of_inputs_tail {s t : UnitState} (h : t.inputs = s.inputs.tail) (n : Nat) :
    t.inputAt n = s.inputAt (n + 1) := by
  unfold inputAt
  rw [h]
  cases s.inputs <;> rfl

/-! ### An executed operation is one cycle that accepts it -/

/-- The cycle is that of a unit which differs from the one of `s` at most in the free values used (R70). -/
theorem exec_eq_clockCycle (i : Instr) (s : State) : ∃ (r : Word) (u : UnitState),
    exec i s = .next ((clockCycle (some ⟨i.operand, r⟩) u).builtWith s.strat) ∧
      u.inputs = s.inputs ∧ u.inFlight = s.inFlight ∧ MayDeliver i r := by
  cases i
  case estRef v =>
    by_cases hv : operandValue v ≥ 1
    · refine ⟨encodeResult (fRef (operandValue v)), s.toUnitState, ?_, rfl, rfl, ?_⟩
      · simp only [exec, execEstRef, if_pos hv]
        rfl
      · simp [MayDeliver, contractResult, hv]
    · refine ⟨s.draw.1, s.draw.2, ?_, rfl, rfl, ?_⟩
      · simp only [exec, execEstRef, if_neg hv]
        rfl
      · simp [MayDeliver, contractResult, hv]
  all_goals exact ⟨_, s.toUnitState, rfl, rfl, rfl, by simp [MayDeliver, contractResult]⟩

/-! ### The effect of a step -/

/-- `a` is what the coming cycle of `s` accepts: the operand presented, with a result the contract allows, or nothing
(R25, R54). -/
structure State.Takes (s : State) (a : Option InFlight) : Prop where
  of_accepts     : s.AcceptsAt 0 → ∃ r, a = some ⟨(s.inputAt 0).inV, r⟩ ∧ MayAnswer s.strat (s.inputAt 0).inV r
  of_not_accepts : ¬ s.AcceptsAt 0 → a = none

/-- The step of `s` ends in `t` and takes `a` in. For every `LATENCY` the cycle presents the head of the slots followed
by `a`, and leaves their tail, or nothing after a reset edge (R25, R26, R96). -/
structure StepEffect (s t : State) (a : Option InFlight) : Prop where
  next                  : step s = .next t
  takes                 : s.Takes a
  strat                 : t.strat = s.strat
  latency               : t.latency = s.latency
  inputs                : t.inputs = s.inputs.tail
  presents              : t.Presents ((s.inFlight ++ [a]).headD none)
  inFlight_of_reset     : s.ResetsAt 0 → t.inFlight = List.replicate s.latency none
  inFlight_of_not_reset : ¬ s.ResetsAt 0 → t.inFlight = (s.inFlight ++ [a]).tail

theorem State.takes_none_of_not_accepts {s : State} (h : ¬ s.AcceptsAt 0) : s.Takes none :=
  ⟨fun ha => absurd ha h, fun _ => rfl⟩

/-- An accepted operand is taken in with any result the contract allows the operation it decodes to (R25, R54). -/
theorem State.takes_some_of_accepts {s : State} {i : Instr} {r : Word} (h : s.AcceptsAt 0)
    (hdec : decodeRequest (requestWord s.strat (s.inputAt 0).inV) = .ok i) (hmay : MayDeliver i r) :
    s.Takes (some ⟨(s.inputAt 0).inV, r⟩) :=
  ⟨fun _ => ⟨r, rfl, fun _ hj => Except.ok.inj (hdec.symm.trans hj) ▸ hmay⟩, fun hn => absurd h hn⟩

/-- A step that is one cycle without a reset edge has the cycle's effect. -/
theorem StepEffect.of_clockCycle {s : State} {a : Option InFlight} {u : UnitState} (hreset : ¬ s.ResetsAt 0)
    (htakes : s.Takes a) (hinputs : u.inputs = s.inputs.tail) (hslots : u.inFlight = s.inFlight)
    (hstep : step s = .next ((clockCycle a u).builtWith s.strat)) :
    StepEffect s ((clockCycle a u).builtWith s.strat) a where
  next := hstep
  takes := htakes
  strat := rfl
  latency := by simp [UnitState.latency, hslots, clockCycle_inFlight]
  inputs := by simp [hinputs]
  presents := hslots ▸ clockCycle_presents a u
  inFlight_of_reset h := absurd h hreset
  inFlight_of_not_reset _ := by simp [clockCycle_inFlight, hslots]

/-- A step that ends at a reset edge takes nothing in and empties every slot (R96). -/
theorem StepEffect.of_resetCycle {s : State} (hreset : s.ResetsAt 0)
    (hstep : step s = .next ((resetCycle s.advanceInputs).builtWith s.strat)) :
    StepEffect s ((resetCycle s.advanceInputs).builtWith s.strat) none where
  next := hstep
  takes := State.takes_none_of_not_accepts fun h => h.2 hreset
  strat := rfl
  latency := by simp
  inputs := by simp
  presents := clockCycle_presents none s.advanceInputs
  inFlight_of_reset _ := by simp
  inFlight_of_not_reset h := absurd hreset h

/-- Only `STRAT` decides whether a build is legal (R51). -/
theorem State.Built.of_strat_eq {s t : State} (hb : s.Built) (h : t.strat = s.strat) : t.Built := by
  rw [State.Built, h]
  exact hb

/-- Every step of a legal build has the effect of one cycle (R51, R57). -/
theorem State.Built.exists_stepEffect {s : State} (hb : s.Built) : ∃ t a, StepEffect s t a := by
  obtain ⟨i, hdec, -, hop⟩ := decodeRequest_of_legal hb (s.inputAt 0).inV
  have hstep := step_of_decoded (s := s) (by rw [UnitState.request, s.currentInputs_eq_inputAt_zero]; exact hdec)
  rw [UnitState.currentInputs_eq_inputAt_zero] at hstep
  by_cases hr : s.ResetsAt 0
  · rw [if_pos (s.resetting_iff.mpr hr)] at hstep
    exact ⟨_, none, .of_resetCycle hr hstep⟩
  rw [if_neg (mt s.resetting_iff.mp hr)] at hstep
  by_cases hv : (s.inputAt 0).inValid = true
  · rw [if_pos hv] at hstep
    obtain ⟨r, u, hexec, hinputs, hslots, hmay⟩ := exec_eq_clockCycle i (s.advanceInputs.builtWith s.strat)
    rw [hop] at hexec
    exact ⟨_, _, .of_clockCycle hr (State.takes_some_of_accepts ⟨hv, hr⟩ hdec hmay) hinputs hslots
      (hstep.trans hexec)⟩
  · rw [if_neg hv] at hstep
    exact ⟨_, none, .of_clockCycle (u := s.advanceInputs) hr (State.takes_none_of_not_accepts fun ha => hv ha.1)
      rfl rfl hstep⟩

/-- A run goes on from the next state. -/
theorem core_run_succ_of_next {M : Host.Core} {s t : M.State} (h : M.step s = .next t) (n : Nat) :
    M.run (n + 1) s = M.run n t := by
  simp only [Host.Core.run, h]

namespace StepEffect

variable {s t : State} {a : Option InFlight}

theorem inputAt (h : StepEffect s t a) (n : Nat) : t.inputAt n = s.inputAt (n + 1) :=
  UnitState.inputAt_of_inputs_tail h.inputs n

theorem resetsAt_iff (h : StepEffect s t a) (n : Nat) : t.ResetsAt n ↔ s.ResetsAt (n + 1) := by
  simp only [UnitState.ResetsAt, h.latency, h.inputAt]

/-- After a reset edge no slot holds an operation (R96). -/
theorem slot_of_reset (h : StepEffect s t a) (hr : s.ResetsAt 0) (n : Nat) : t.inFlight.getD n none = none := by
  rw [h.inFlight_of_reset hr]
  simp

/-- Every operation in flight comes one cycle nearer (R26, R28). -/
theorem slot_of_not_reset (h : StepEffect s t a) (hr : ¬ s.ResetsAt 0) (n : Nat) :
    t.inFlight.getD n none = (s.inFlight ++ [a]).getD (n + 1) none := by
  rw [h.inFlight_of_not_reset hr]
  cases s.inFlight <;> rfl

theorem run_succ (h : StepEffect s t a) (n : Nat) : Sys2Proof.core.run (n + 1) s = Sys2Proof.core.run n t :=
  core_run_succ_of_next (M := Sys2Proof.core) h.next n

theorem outputAt_succ (h : StepEffect s t a) (n : Nat) : s.outputAt (n + 1) = t.outputAt n := by
  unfold State.outputAt
  rw [h.run_succ]

theorem outputAt_zero (h : StepEffect s t a) : s.outputAt 0 = some t.out := by
  unfold State.outputAt
  rw [h.run_succ]
  rfl

end StepEffect

/-! ### What a run shows -/

/-- The outputs show the operation that is due, as in `UnitState.Presents` (R26, R27). -/
def Outputs.Shows (o : Outputs) (due : Option InFlight) : Prop :=
  (due = none → o.valid = false) ∧ ∀ op, due = some op → o = ⟨true, op.result⟩

theorem UnitState.presents_iff_shows (t : UnitState) (due : Option InFlight) :
    t.Presents due ↔ t.out.Shows due := Iff.rfl

/-- `m` cycles on, a legal build has become a state of the same build, which is presented the rest of the inputs and
shows the rest of the outputs. -/
theorem State.Built.exists_after {s : State} (hb : s.Built) (m : Nat) : ∃ t : State, t.strat = s.strat ∧
    t.latency = s.latency ∧ (∀ n, t.inputAt n = s.inputAt (m + n)) ∧ ∀ n, t.outputAt n = s.outputAt (m + n) := by
  induction m generalizing s with
  | zero => exact ⟨s, rfl, rfl, by simp, by simp⟩
  | succ m ih =>
    obtain ⟨s', a, h⟩ := hb.exists_stepEffect
    obtain ⟨t, hstrat, hlat, hin, hout⟩ := ih (hb.of_strat_eq h.strat)
    refine ⟨t, hstrat.trans h.strat, hlat.trans h.latency, fun n => ?_, fun n => ?_⟩
    · rw [hin, h.inputAt, Nat.add_right_comm]
    · rw [hout, ← h.outputAt_succ, Nat.add_right_comm]

/-- The operation in slot `n`, where the one just taken in counts as slot `LATENCY`, is shown in cycle `n`, unless a reset
edge comes before (R26, R28, R96). -/
theorem StepEffect.outputAt_slot {s t : State} {a : Option InFlight} (h : StepEffect s t a) (hb : s.Built) {n : Nat}
    (hn : n ≤ s.latency) : ∃ o : Outputs, s.outputAt n = some o ∧
      ((∃ j < n, s.ResetsAt j) → o.valid = false) ∧
      ((∀ j < n, ¬ s.ResetsAt j) → o.Shows ((s.inFlight ++ [a]).getD n none)) := by
  induction n generalizing s t a with
  | zero =>
    refine ⟨t.out, h.outputAt_zero, by simp, fun _ => ?_⟩
    have hhead : (s.inFlight ++ [a]).getD 0 none = (s.inFlight ++ [a]).headD none := by
      cases s.inFlight <;> rfl
    rw [hhead]
    exact (t.presents_iff_shows _).mp h.presents
  | succ n ih =>
    obtain ⟨t', a', h'⟩ := (hb.of_strat_eq h.strat).exists_stepEffect
    have hlt : n < t.latency := by
      rw [h.latency]
      exact hn
    obtain ⟨o, ho, hreset, hshows⟩ := ih h' (hb.of_strat_eq h.strat) (Nat.le_of_lt hlt)
    rw [List.getD_append _ _ _ _ hlt] at hshows
    simp only [h.resetsAt_iff] at hreset hshows
    have ho' : s.outputAt (n + 1) = some o := (h.outputAt_succ n).trans ho
    by_cases h0 : s.ResetsAt 0
    · have hvalid : o.valid = false := by
        by_cases hlater : ∃ j < n, s.ResetsAt (j + 1)
        · exact hreset hlater
        · exact (hshows (by simpa using hlater)).1 (h.slot_of_reset h0 n)
      exact ⟨o, ho', fun _ => hvalid, fun hall => absurd h0 (hall 0 n.succ_pos)⟩
    · refine ⟨o, ho', fun ⟨j, hj, hr⟩ => ?_, fun hall => ?_⟩
      · cases j with
        | zero => exact absurd hr h0
        | succ j => exact hreset ⟨j, Nat.lt_of_succ_lt_succ hj, hr⟩
      · rw [← h.slot_of_not_reset h0]
        exact hshows fun j hj => hall (j + 1) (Nat.succ_lt_succ hj)

/-- The operand presented in the coming cycle is answered `LATENCY` cycles later exactly when it is accepted and no reset
edge discards it (R25, R26, R96). -/
theorem State.Built.outputAt_latency {s : State} (hb : s.Built) : ∃ o : Outputs, s.outputAt s.latency = some o ∧
    (o.valid = true ↔ s.AcceptsAt 0 ∧ ∀ j, 0 < j → j < s.latency → ¬ s.ResetsAt j) ∧
    (o.valid = true → MayAnswer s.strat (s.inputAt 0).inV o.r) := by
  obtain ⟨t, a, h⟩ := hb.exists_stepEffect
  obtain ⟨o, ho, hreset, hshows⟩ := h.outputAt_slot hb (Nat.le_refl s.latency)
  have hslot : (s.inFlight ++ [a]).getD s.latency none = a := by simp [UnitState.latency]
  rw [hslot] at hshows
  by_cases hkept : s.AcceptsAt 0 ∧ ∀ j, 0 < j → j < s.latency → ¬ s.ResetsAt j
  · obtain ⟨hacc, hlater⟩ := hkept
    obtain ⟨r, rfl, hanswer⟩ := h.takes.of_accepts hacc
    have hno : ∀ j < s.latency, ¬ s.ResetsAt j := fun j hj =>
      (Nat.eq_zero_or_pos j).elim (fun hz => hz ▸ hacc.2) fun hpos => hlater j hpos hj
    obtain rfl := (hshows hno).2 _ rfl
    exact ⟨_, ho, iff_of_true rfl ⟨hacc, hlater⟩, fun _ => hanswer⟩
  · have hvalid : o.valid = false := by
      by_cases hex : ∃ j < s.latency, s.ResetsAt j
      · exact hreset hex
      · have hno : ∀ j < s.latency, ¬ s.ResetsAt j := by simpa using hex
        exact (hshows hno).1 (h.takes.of_not_accepts fun hacc => hkept ⟨hacc, fun j _ => hno j⟩)
    exact ⟨o, ho, iff_of_false (by simp [hvalid]) hkept, by simp [hvalid]⟩

/-- Settles O11: `m` cycles on, the build is the same, so the statement is that of the cycle then to come; and the operand
of that cycle moves through the slots by induction on the cycles until it is due. -/
theorem resultAppearsLatencyCyclesAfterAcceptance : Obligations.ResultAppearsLatencyCyclesAfterAcceptance := by
  intro s m hb
  obtain ⟨t, hstrat, hlat, hin, hout⟩ := hb.exists_after m
  have hresets (n : Nat) : t.ResetsAt n ↔ s.ResetsAt (m + n) := by
    simp only [UnitState.ResetsAt, hlat, hin]
  obtain ⟨o, ho, hvalid, hanswer⟩ := (hb.of_strat_eq hstrat).outputAt_latency
  have haccepts : t.AcceptsAt 0 ↔ s.AcceptsAt m := by
    simp only [UnitState.AcceptsAt, hresets, hin, Nat.add_zero]
  have hbetween : (∀ j, 0 < j → j < s.latency → ¬ s.ResetsAt (m + j)) ↔
      ∀ j, m < j → j < m + s.latency → ¬ s.ResetsAt j := by
    refine ⟨fun h j hm hj => ?_, fun h j h0 hj => h (m + j) (by omega) (by omega)⟩
    obtain ⟨k, rfl⟩ := Nat.exists_eq_add_of_lt hm
    exact h (k + 1) (by omega) (by omega)
  rw [hout, hlat] at ho
  simp only [haccepts, hresets, hlat, hbetween] at hvalid
  rw [hstrat, hin, Nat.add_zero] at hanswer
  exact ⟨o, ho, hvalid, hanswer⟩

end Sys2Proof.Machine

/-! ## Rows of the opcode table, the result word, and the results each strategy can give (spec/30_encoding.md) -/

namespace Sys2Proof

/-- The row of a legal strategy code: its pattern is the code with operand 0, and it makes whatever operation the
decoder answers for the code (R49, R50). -/
theorem exists_row_of_legal {s : StratCode} (h : s.toNat ≤ 5) : ∃ row ∈ opcodeTable,
    row.pattern = requestWord s 0 ∧ row.mask = 0x700000000 ∧
      ∀ v, decodeRequest (requestWord s v) = .ok (row.make v) := by
  have hcode : s = 0 ∨ s = 1 ∨ s = 2 ∨ s = 3 ∨ s = 4 ∨ s = 5 := by
    revert s
    decide
  have hs : s.toNat < opcodeTable.length := Nat.lt_succ_of_le h
  have hrow : opcodeTable[s.toNat] ∈ opcodeTable := List.getElem_mem hs
  refine ⟨opcodeTable[s.toNat], hrow, ?_, Laws.RowOfTable.row_mask _ hrow, fun v => ?_⟩
  · rcases hcode with rfl | rfl | rfl | rfl | rfl | rfl <;> rfl
  · rw [decodeRequest_requestWord]
    rcases hcode with rfl | rfl | rfl | rfl | rfl | rfl <;> rfl

/-- Settles O1: a request word is its code and its operand, and the row is that of the code. -/
theorem decoderSelectsRowByStrategyCode : Obligations.DecoderSelectsRowByStrategyCode := by
  intro w
  refine ⟨fun h => ?_, fun h => ?_⟩
  · obtain ⟨row, hrow, hpattern, hmask, hmake⟩ := exists_row_of_legal (s := stratField w) h
    refine ⟨row, hrow, ?_, hmask, fun w' hcode => ?_⟩
    · rw [hpattern, requestWord_toNat]
      exact Nat.add_zero _
    · have hword : requestWord (stratField w) (operandField w') = w' :=
        (congrArg (requestWord · (operandField w')) hcode.symm).trans (requestWord_fields w')
      exact (congrArg decodeRequest hword).symm.trans (hmake (operandField w'))
  · have hcode : legalStrat (stratField w) = false := decide_eq_false (Nat.not_le_of_lt h)
    rw [← requestWord_fields w, decodeRequest_of_reserved hcode]

namespace Machine

/-! ### The result word (R47) -/

theorem encodeResult_toNat (r : Int) : ((encodeResult r).toNat : Int) = r % 2 ^ 32 := by
  rw [encodeResult, BitVec.toNat_ofInt]
  exact Int.toNat_of_nonneg (Int.emod_nonneg r (by decide))

/-- No 32-bit signed result is changed by its encoding (R47). -/
theorem encodeResult_toInt {r : Int} (hlo : -2 ^ 31 ≤ r) (hhi : r ≤ 2 ^ 31 - 1) : (encodeResult r).toInt = r :=
  BitVec.toInt_ofInt_eq_self (by decide) hlo (Int.lt_of_le_sub_one hhi)

/-! ### The rungs of a ladder (R68, R79) -/

/-- The thresholds of a ladder from the top: each below the one before, and every one an operand above 1. -/
structure Descends (rungs : List (Nat × Int)) : Prop where
  pairwise : rungs.Pairwise fun x y => y.1 < x.1
  operand  : ∀ x ∈ rungs, 1 < x.1 ∧ x.1 < 2 ^ 32

theorem ladder_mem (rungs : List (Nat × Int)) (bottom : Int) (v : Nat) :
    ladder rungs bottom v ∈ bottom :: rungs.map Prod.snd := by
  obtain ⟨-, h⟩ | ⟨above, x, below, rfl, -, -, h⟩ := ladder_cases rungs bottom v <;> simp [h]

/-- Below every threshold the ladder answers its bottom. -/
theorem ladder_of_forall_lt {rungs : List (Nat × Int)} {v : Nat} (bottom : Int) (h : ∀ x ∈ rungs, v < x.1) :
    ladder rungs bottom v = bottom := by
  obtain ⟨-, hb⟩ | ⟨above, x, below, rfl, -, hx, -⟩ := ladder_cases rungs bottom v
  · exact hb
  · exact absurd (h x (by simp)) (Nat.not_lt_of_le hx)

/-- At a threshold the ladder answers that rung's result. -/
theorem ladder_threshold {rungs : List (Nat × Int)} (h : rungs.Pairwise fun x y => y.1 < x.1) (bottom : Int)
    {x : Nat × Int} (hx : x ∈ rungs) : ladder rungs bottom x.1 = x.2 := by
  induction rungs with
  | nil => simp at hx
  | cons y rungs ih =>
    obtain ⟨hy, hrest⟩ := List.pairwise_cons.mp h
    obtain rfl | hx := List.mem_cons.mp hx
    · simp [ladder]
    · simp [ladder, Nat.not_le_of_lt (hy x hx), ih hrest hx]

/-- For `v ≥ 1` a ladder gives exactly its bottom and the results of its rungs. -/
theorem exists_ladder_eq_iff {rungs : List (Nat × Int)} (h : Descends rungs) (bottom r : Int) :
    (∃ v : Word, 1 ≤ v.toNat ∧ ladder rungs bottom v.toNat = r) ↔ r ∈ bottom :: rungs.map Prod.snd := by
  constructor
  · rintro ⟨v, -, rfl⟩
    exact ladder_mem ..
  · intro hr
    obtain rfl | hr := List.mem_cons.mp hr
    · exact ⟨1, Nat.le_refl 1, ladder_of_forall_lt r fun x hx => (h.operand x hx).1⟩
    · obtain ⟨x, hx, rfl⟩ := List.mem_map.mp hr
      obtain ⟨hpos, hlt⟩ := h.operand x hx
      exact ⟨BitVec.ofNatLT x.1 hlt, Nat.le_of_lt hpos, ladder_threshold h.pairwise bottom hx⟩

theorem referenceRungs_descends : Descends referenceRungs := ⟨by decide, by decide⟩

theorem decimalRungs_descends : Descends decimalRungs := ⟨by decide, by decide⟩

theorem mem_referenceResults_iff (r : Int) : r ∈ 0 :: referenceRungs.map Prod.snd ↔ 0 ≤ r ∧ r ≤ 22 := by
  simp [referenceRungs]
  omega

theorem mem_decimalResults_iff (r : Int) : r ∈ decimalBottom :: decimalRungs.map Prod.snd ↔ 0 ≤ r ∧ r ≤ 9 := by
  simp [decimalRungs, decimalBottom]
  omega

theorem fRef_range (v : Nat) : 0 ≤ fRef v ∧ fRef v ≤ 22 := (mem_referenceResults_iff _).mp (ladder_mem ..)

theorem fDec_range (v : Nat) : 0 ≤ fDec v ∧ fDec v ≤ 9 := (mem_decimalResults_iff _).mp (ladder_mem ..)

/-! ### The base-2 strategies give `log2` (R59) -/

/-- A shift that leaves a bit lowers the highest one by its amount. -/
theorem log2_shiftRight_add {v n : Nat} (h : v >>> n ≠ 0) : Nat.log2 (v >>> n) + n = Nat.log2 v := by
  have hv : v ≠ 0 := by
    rintro rfl
    simp at h
  symm
  rw [Nat.log2_eq_iff hv, Nat.add_right_comm, Nat.pow_add, Nat.pow_add]
  have hlo := Nat.log2_self_le h
  have hhi := @Nat.lt_log2_self (v >>> n)
  rw [Nat.shiftRight_eq_div_pow] at hlo hhi ⊢
  exact ⟨(Nat.le_div_iff_mul_le (Nat.two_pow_pos n)).mp hlo, (Nat.div_lt_iff_lt_mul (Nat.two_pow_pos n)).mp hhi⟩

/-- The entries of R72 other than the sentinel. -/
theorem rom_eq_log2 : ∀ i : BitVec 8, i ≠ 0 → rom i = Nat.log2 i.toNat := by decide

/-- A read at the highest non-zero byte, moved down to bit 0, with the byte's place as offset. -/
theorem lookup_result_eq_log2 {v n : Nat} (hpos : v >>> n ≠ 0) (hlt : v >>> n < 256) :
    (⟨n, v >>> n⟩ : Lookup).result = Nat.log2 v := by
  have hi : (BitVec.ofNat 8 (v >>> n)).toNat = v >>> n := by simp [Nat.mod_eq_of_lt hlt]
  have hne : BitVec.ofNat 8 (v >>> n) ≠ 0 := fun h => hpos (by rw [← hi, h]; rfl)
  rw [Lookup.result, rom_eq_log2 _ hne, hi, ← log2_shiftRight_add hpos]
  push_cast
  ring

/-- The decision tree and the chain of tests read the same entry with the same offset. -/
theorem tbbLookup_eq_tubLookup (v : Nat) : tbbLookup v = tubLookup v := by
  simp only [tbbLookup, tubLookup, ← Nat.shiftRight_add]
  by_cases h16 : v >>> 16 = 0
  · have h24 : v >>> 24 = 0 := by rw [show 24 = 16 + 8 from rfl, Nat.shiftRight_add, h16, Nat.zero_shiftRight]
    simp [h16, h24]
  · simp [h16]

theorem fTbb_eq_fTub (v : Nat) : fTbb v = fTub v := congrArg Lookup.result (tbbLookup_eq_tubLookup v)

theorem fTub_eq_log2 {v : Nat} (hpos : v ≠ 0) (hlt : v < 2 ^ 32) : fTub v = Nat.log2 v := by
  have hbyte (n : Nat) (h : v >>> (n + 8) = 0) : v >>> n < 256 := by
    rw [Nat.shiftRight_add, Nat.shiftRight_eq_div_pow (v >>> n)] at h
    omega
  unfold fTub tubLookup
  split
  next h24 => exact lookup_result_eq_log2 h24 (hbyte 24 (Nat.shiftRight_eq_zero v 32 hlt))
  next h24 =>
    split
    next h16 => exact lookup_result_eq_log2 h16 (hbyte 16 (not_not.mp h24))
    next h16 =>
      split
      next h8 => exact lookup_result_eq_log2 h8 (hbyte 8 (not_not.mp h16))
      next h8 => exact lookup_result_eq_log2 (n := 0) hpos (hbyte 0 (not_not.mp h8))

/-- A remaining value and an accumulator of R76 or R77 when the shifts below `2 ^ k` are still to be tried: the value is
`v` shifted by the accumulator and fits in `2 ^ k` bits, and the accumulator is made of shifts `2 ^ k` and above, all of
them below the highest bit of `v`. -/
structure Narrowed (v k : Nat) (x : Nat × Nat) : Prop where
  value_eq : x.1 = v >>> x.2
  value_lt : x.1 < 2 ^ 2 ^ k
  dvd_acc  : 2 ^ k ∣ x.2
  acc_le   : x.2 ≤ Nat.log2 v

/-- What a stage of R76 and a stage of R77 do alike: shift by `2 ^ k` a value that has a bit at `2 ^ k` or above. -/
def narrowStage (k : Nat) (x : Nat × Nat) : Nat × Nat :=
  if 2 ^ 2 ^ k ≤ x.1 then (x.1 >>> 2 ^ k, x.2 ||| 2 ^ k) else x

theorem narrowed_start {v : Nat} (h : v < 2 ^ 32) : Narrowed v 5 (v, 0) := ⟨rfl, h, Nat.dvd_zero _, Nat.zero_le _⟩

/-- ORing in a power of two below every bit that can be set is adding it (R64). -/
theorem or_two_pow_eq_add {k a : Nat} (h : 2 ^ (k + 1) ∣ a) : a ||| 2 ^ k = a + 2 ^ k := by
  obtain ⟨q, rfl⟩ := h
  exact (Nat.two_pow_add_eq_or_of_lt (Nat.pow_lt_pow_succ (by decide)) q).symm

theorem Narrowed.narrow {v k : Nat} {x : Nat × Nat} (h : Narrowed v (k + 1) x) : Narrowed v k (narrowStage k x) := by
  obtain ⟨hval, hlt, hdvd, hacc⟩ := h
  have hdvd' : 2 ^ k ∣ x.2 := (pow_dvd_pow 2 k.le_succ).trans hdvd
  unfold narrowStage
  split
  next hge =>
    have hpos : v >>> x.2 ≠ 0 := hval ▸ (Nat.lt_of_lt_of_le (Nat.two_pow_pos _) hge).ne'
    have hbit : 2 ^ k ≤ Nat.log2 (v >>> x.2) := (Nat.le_log2 hpos).mpr (hval ▸ hge)
    have hlog := log2_shiftRight_add hpos
    rw [or_two_pow_eq_add hdvd]
    refine ⟨?_, ?_, Nat.dvd_add hdvd' (Nat.dvd_refl _), by omega⟩
    · rw [Nat.shiftRight_add, hval]
    · rw [Nat.shiftRight_eq_div_pow, Nat.div_lt_iff_lt_mul (Nat.two_pow_pos _), ← Nat.pow_add, ← Nat.two_mul,
        ← Nat.pow_succ']
      exact hlt
  next hge => exact ⟨hval, Nat.lt_of_not_le hge, hdvd', hacc⟩

/-- With no shift left to try, the accumulator is the index of the highest set bit. -/
theorem Narrowed.acc_eq_log2 {v : Nat} {x : Nat × Nat} (h : Narrowed v 0 x) : x.2 = Nat.log2 v := by
  obtain ⟨hval, hlt, -, hacc⟩ := h
  rcases Nat.eq_zero_or_pos v with rfl | hpos
  · exact Nat.eq_zero_of_le_zero hacc
  · rw [hval, Nat.shiftRight_eq_div_pow, Nat.div_lt_iff_lt_mul (Nat.two_pow_pos _), ← Nat.pow_add,
      Nat.add_comm] at hlt
    exact Nat.le_antisymm hacc (Nat.le_of_lt_succ ((Nat.log2_lt hpos.ne').mpr hlt))

/-- The bits `n` to `2n - 1` of a `2n`-bit value are clear exactly when the value is below `2 ^ n`. -/
theorem and_upperHalf_ne_zero_iff {n w : Nat} (h : w < 2 ^ (2 * n)) :
    w &&& (2 ^ (2 * n) - 2 ^ n) ≠ 0 ↔ 2 ^ n ≤ w := by
  have hmask : 2 ^ (2 * n) - 2 ^ n = (2 ^ n - 1) <<< n := by
    rw [Nat.shiftLeft_eq, Nat.sub_mul, Nat.two_mul, Nat.pow_add, Nat.one_mul]
  have hhigh : w &&& (2 ^ (2 * n) - 2 ^ n) = w >>> n <<< n := by
    apply Nat.eq_of_testBit_eq
    intro i
    have hbit (hi : w.testBit i = true) : i < 2 * n :=
      (Nat.pow_lt_pow_iff_right Nat.one_lt_two).mp ((Nat.ge_two_pow_of_testBit hi).trans_lt h)
    rw [hmask, Nat.testBit_and, Nat.testBit_shiftLeft, Nat.testBit_shiftLeft, Nat.testBit_shiftRight,
      Nat.testBit_two_pow_sub_one]
    by_cases hn : n ≤ i
    · simp only [hn, Nat.add_sub_cancel' hn, decide_true, Bool.true_and, Bool.and_eq_left_iff_imp,
        decide_eq_true_eq]
      intro hi
      have := hbit hi
      omega
    · simp [hn]
  rw [hhigh, Nat.shiftLeft_eq, Nat.shiftRight_eq_div_pow, ← Nat.pos_iff_ne_zero]
  simp [Nat.div_pos_iff]

theorem halvingStage_eq_narrowStage {k : Nat} {x : Nat × Nat} (h : x.1 < 2 ^ 2 ^ (k + 1)) :
    halvingStage x (2 ^ 2 ^ (k + 1) - 2 ^ 2 ^ k, 2 ^ k) = narrowStage k x := by
  rw [Nat.pow_succ'] at h ⊢
  simp only [halvingStage, narrowStage, and_upperHalf_ne_zero_iff h]

theorem cascadeStage_eq_narrowStage (k : Nat) (x : Nat × Nat) :
    cascadeStage x (2 ^ 2 ^ k - 1, k) = narrowStage k x := by
  have hlimit : x.1 > 2 ^ 2 ^ k - 1 ↔ 2 ^ 2 ^ k ≤ x.1 := by
    have := Nat.two_pow_pos (2 ^ k)
    omega
  by_cases h : 2 ^ 2 ^ k ≤ x.1 <;> simp [cascadeStage, narrowStage, hlimit, h, Nat.shiftLeft_eq]

/-- A stage of R76, whose mask is the upper half of the bits that can be set. -/
theorem Narrowed.halvingStage {v k : Nat} {x : Nat × Nat} (h : Narrowed v (k + 1) x) :
    Narrowed v k (halvingStage x (2 ^ 2 ^ (k + 1) - 2 ^ 2 ^ k, 2 ^ k)) :=
  halvingStage_eq_narrowStage h.value_lt ▸ h.narrow

/-- A stage of R77, whose limit is the greatest value that needs no shift. -/
theorem Narrowed.cascadeStage {v k : Nat} {x : Nat × Nat} (h : Narrowed v (k + 1) x) :
    Narrowed v k (cascadeStage x (2 ^ 2 ^ k - 1, k)) :=
  cascadeStage_eq_narrowStage k x ▸ h.narrow

/-- The five stages of R76 leave no shift to try. -/
theorem halvingStages_narrowed {v : Nat} (h : v < 2 ^ 32) : Narrowed v 0 (halvingStages.foldl halvingStage (v, 0)) :=
  (narrowed_start h).halvingStage.halvingStage.halvingStage.halvingStage.halvingStage

/-- The four comparisons of R77 leave the shift by 1 to try (R78). -/
theorem cascadeCompare_narrowed {v : Nat} (h : v < 2 ^ 32) : Narrowed v 1 (cascadeCompare v) :=
  (narrowed_start h).cascadeStage.cascadeStage.cascadeStage.cascadeStage

/-- The final stage of R78 is the shift by 1, on a value of two bits. -/
theorem cascadeFinal_eq_narrowStage {x : Nat × Nat} (h : x.1 < 4) : x.2 ||| x.1 >>> 1 = (narrowStage 0 x).2 := by
  obtain ⟨w, acc⟩ := x
  simp only at h ⊢
  interval_cases w <;> simp [narrowStage]

theorem fBmh_eq_log2 {v : Nat} (h : v < 2 ^ 32) : fBmh v = Nat.log2 v :=
  congrArg Nat.cast (halvingStages_narrowed h).acc_eq_log2

theorem fBmc_eq_log2 {v : Nat} (h : v < 2 ^ 32) : fBmc v = Nat.log2 v := by
  have hn := cascadeCompare_narrowed h
  rw [fBmc, cascadeFinal_eq_narrowStage hn.value_lt, hn.narrow.acc_eq_log2]

/-! ### The results of the contract (R48) -/

theorem contractResult_eq_log2 : ∀ make ∈ [Instr.estTbb, Instr.estTub, Instr.estBmh, Instr.estBmc], ∀ v : Word,
    1 ≤ v.toNat → contractResult (make v) = some (Nat.log2 v.toNat : Int) := by
  intro make hmake v hv
  have hpos : v.toNat ≠ 0 := Nat.ne_of_gt hv
  simp only [List.mem_cons, List.not_mem_nil, or_false] at hmake
  obtain rfl | rfl | rfl | rfl := hmake
  · exact congrArg some ((fTbb_eq_fTub _).trans (fTub_eq_log2 hpos v.isLt))
  · exact congrArg some (fTub_eq_log2 hpos v.isLt)
  · exact congrArg some (fBmh_eq_log2 v.isLt)
  · exact congrArg some (fBmc_eq_log2 v.isLt)

theorem log2_word_le (v : Word) : Nat.log2 v.toNat ≤ 31 := by
  rcases Nat.eq_zero_or_pos v.toNat with h | h
  · simp [h]
  · exact Nat.le_of_lt_succ ((Nat.log2_lt h.ne').mpr v.isLt)

theorem exists_log2_eq_iff (r : Int) :
    (∃ v : Word, 1 ≤ v.toNat ∧ (Nat.log2 v.toNat : Int) = r) ↔ 0 ≤ r ∧ r ≤ 31 := by
  constructor
  · rintro ⟨v, -, rfl⟩
    have := log2_word_le v
    omega
  · rintro ⟨h0, h31⟩
    obtain ⟨k, rfl⟩ := Int.eq_ofNat_of_zero_le h0
    have hlt : 2 ^ k < 2 ^ 32 := Nat.pow_lt_pow_right (by decide) (by omega)
    exact ⟨BitVec.ofNatLT (2 ^ k) hlt, Nat.two_pow_pos k, congrArg Nat.cast Nat.log2_two_pow⟩

/-- Settles O24: the ladders give their bottom and their rungs' results, and the base-2 strategies give `log2`. -/
theorem resultRanges : Obligations.ResultRanges := by
  refine ⟨fun r => ?_, fun make hmake r => ?_, fun r => ?_, rfl, by decide, by decide, by decide, by decide,
    by decide⟩
  · rw [← mem_referenceResults_iff, ← exists_ladder_eq_iff referenceRungs_descends]
    refine exists_congr fun v => and_congr_right fun hv => ?_
    simp [contractResult, operandValue, hv, fRef]
  · rw [← exists_log2_eq_iff]
    refine exists_congr fun v => and_congr_right fun hv => ?_
    simp [contractResult_eq_log2 make hmake v hv]
  · rw [← mem_decimalResults_iff, ← exists_ladder_eq_iff decimalRungs_descends]
    refine exists_congr fun v => and_congr_right fun _ => ?_
    simp [contractResult, operandValue, fDec]

theorem fTub_range (v : Word) : -1 ≤ fTub v.toNat ∧ fTub v.toNat ≤ 31 := by
  rcases Nat.eq_zero_or_pos v.toNat with h | h
  · rw [h]
    decide
  · have := log2_word_le v
    rw [fTub_eq_log2 h.ne' v.isLt]
    omega

/-- Every result the contract fixes lies between the sentinel and the index of the top bit. -/
theorem contractResult_range {i : Instr} {r : Int} (h : contractResult i = some r) : -1 ≤ r ∧ r ≤ 31 := by
  cases i with
  | estRef v =>
    obtain ⟨-, rfl⟩ : operandValue v ≥ 1 ∧ fRef (operandValue v) = r := by simpa [contractResult] using h
    have := fRef_range (operandValue v)
    omega
  | estTbb v =>
    obtain rfl := Option.some.inj h
    exact fTbb_eq_fTub _ ▸ fTub_range v
  | estTub v =>
    obtain rfl := Option.some.inj h
    exact fTub_range v
  | estBmh v =>
    obtain rfl := Option.some.inj h
    have := log2_word_le v
    rw [operandValue, fBmh_eq_log2 v.isLt]
    omega
  | estBmc v =>
    obtain rfl := Option.some.inj h
    have := log2_word_le v
    rw [operandValue, fBmc_eq_log2 v.isLt]
    omega
  | estDec v =>
    obtain rfl := Option.some.inj h
    have := fDec_range (operandValue v)
    omega

/-- Settles O6: the encoding is `r mod 2^32`, and every fixed result lies in `-1..31`. -/
theorem resultEncodingIsTwosComplement : Obligations.ResultEncodingIsTwosComplement := by
  refine ⟨fun r hlo hhi => ⟨encodeResult_toNat r, encodeResult_toInt hlo hhi⟩, by decide, by decide, by decide,
    fun i r h => ?_⟩
  obtain ⟨hlo, hhi⟩ := contractResult_range h
  omega

end Machine

end Sys2Proof

/-! ## The operation contract: floor(log2), agreement and monotonicity (spec/40_operation_contract.md) -/

namespace Sys2Proof.Machine

/-! ### An operation is the acceptance of its contract result (R54, R55) -/

theorem exec_of_contractResult {i : Instr} {r : Int} (h : contractResult i = some r) (s : State) :
    exec i s = acceptOperation i.operand (encodeResult r) s := by
  cases i with
  | estRef v =>
    obtain ⟨hv, rfl⟩ : operandValue v ≥ 1 ∧ fRef (operandValue v) = r := by simpa [contractResult] using h
    simp [exec, execEstRef, hv, Instr.operand]
  | _ v =>
    obtain rfl := Option.some.inj h
    rfl

/-- Operations on one operand with the same fixed contract result do the same. -/
theorem exec_eq_of_contractResult_eq {i j : Instr} {r : Int} (hsame : contractResult i = contractResult j)
    (hi : contractResult i = some r) (hoperand : i.operand = j.operand) (s : State) : exec i s = exec j s := by
  rw [exec_of_contractResult hi, exec_of_contractResult (hsame.symm.trans hi), hoperand]

/-! ### What `log2` is in real numbers and in bits (R59) -/

theorem floor_logb_two_natCast (n : Nat) : ⌊Real.logb 2 n⌋ = Nat.log2 n := by
  rw [Nat.log2_eq_log_two, ← Int.log_natCast (R := ℝ)]
  exact Real.floor_logb_natCast (b := 2) n.cast_nonneg

/-- `log2` is the index of the highest set bit. -/
theorem getLsbD_log2_toNat {w : Nat} {v : BitVec w} (hv : v.toNat ≠ 0) : v.getLsbD (Nat.log2 v.toNat) = true :=
  Nat.testBit_log2 hv

theorem getLsbD_eq_false_of_log2_toNat_lt {w j : Nat} {v : BitVec w} (hj : Nat.log2 v.toNat < j) :
    v.getLsbD j = false :=
  Nat.testBit_lt_two_pow (Nat.lt_log2_self.trans_le (Nat.pow_le_pow_right Nat.two_pos hj))

/-- The leading zeros, the highest set bit and the bits below it are all the bits of the word. -/
theorem clz_add_log2_toNat {w : Nat} {v : BitVec w} (hv : v.toNat ≠ 0) :
    v.clz.toNat + Nat.log2 v.toNat + 1 = w := by
  have hlt : v.toNat < 2 ^ (w - v.clz.toNat) := BitVec.toNat_lt_two_pow_sub_clz
  have hclz : v.clz.toNat < w := by
    by_contra hge
    rw [Nat.sub_eq_zero_of_le (Nat.le_of_not_lt hge)] at hlt
    omega
  have hlow : 2 ^ (w - 1 - v.clz.toNat) ≤ v.toNat :=
    BitVec.two_pow_sub_clz_le_toNat_of_ne_zero (Nat.zero_lt_of_lt hclz) fun h => hv (by simp [h])
  have hlog : Nat.log2 v.toNat = w - 1 - v.clz.toNat :=
    (Nat.log2_eq_iff hv).mpr ⟨hlow, by rwa [show w - 1 - v.clz.toNat + 1 = w - v.clz.toNat by omega]⟩
  omega

theorem instrOperand_baseTwo : ∀ make ∈ [Instr.estTbb, Instr.estTub, Instr.estBmh, Instr.estBmc], ∀ v : Word,
    (make v).operand = v := by
  simp [Instr.operand]

/-- Settles O21: each of the four operations accepts `log2 v` as its result. -/
theorem baseTwoStrategiesGiveFloorLog2 : Obligations.BaseTwoStrategiesGiveFloorLog2 := by
  intro make hmake v s hv
  have hpos : v.toNat ≠ 0 := Nat.ne_of_gt hv
  obtain ⟨t, hnext, hinputs, heffect⟩ := acceptOperation_next v (encodeResult (Nat.log2 v.toNat)) s
  have hexec := exec_of_contractResult (contractResult_eq_log2 make hmake v hv) s
  rw [instrOperand_baseTwo make hmake] at hexec
  refine ⟨Nat.log2 v.toNat, t, hexec.trans hnext, hinputs, heffect, Nat.log2_self_le hpos, Nat.lt_log2_self,
    (floor_logb_two_natCast _).symm,
    ⟨getLsbD_log2_toNat hpos, fun j hj => getLsbD_eq_false_of_log2_toNat_lt hj⟩, ?_⟩
  have := clz_add_log2_toNat hpos
  omega

/-- Settles O22: the table strategies make the same read and the bit strategies both give `log2`, at 0 too; from 1 on
so do the table strategies. -/
theorem baseTwoStrategiesAgree : Obligations.BaseTwoStrategiesAgree := by
  intro v s
  have htable : contractResult (.estTbb v) = contractResult (.estTub v) := congrArg some (fTbb_eq_fTub _)
  have hbits : contractResult (.estBmh v) = contractResult (.estBmc v) :=
    congrArg some ((fBmh_eq_log2 v.isLt).trans (fBmc_eq_log2 v.isLt).symm)
  refine ⟨exec_eq_of_contractResult_eq htable rfl rfl s, exec_eq_of_contractResult_eq hbits rfl rfl s, fun hv => ?_⟩
  have htbb := contractResult_eq_log2 .estTbb (by simp) v hv
  have hbmh := contractResult_eq_log2 .estBmh (by simp) v hv
  exact exec_eq_of_contractResult_eq (htbb.trans hbmh.symm) htbb rfl s

/-! ### Monotonicity (R61) -/

/-- A ladder whose results fall from the top down to the bottom is monotone in the operand. -/
theorem ladder_le_ladder {rungs : List (Nat × Int)} {bottom : Int} {v1 v2 : Nat}
    (hfall : (rungs.map Prod.snd ++ [bottom]).Pairwise (· ≥ ·)) (hle : v1 ≤ v2) :
    ladder rungs bottom v1 ≤ ladder rungs bottom v2 := by
  induction rungs with
  | nil => exact le_rfl
  | cons x rungs ih =>
    obtain ⟨htop, hrest⟩ := List.pairwise_cons.mp hfall
    by_cases h1 : x.1 ≤ v1
    · simp [ladder, h1, h1.trans hle]
    · by_cases h2 : x.1 ≤ v2
      · have hmem : ladder rungs bottom v1 ∈ rungs.map Prod.snd ++ [bottom] :=
          (List.perm_append_singleton _ _).mem_iff.mpr (ladder_mem rungs bottom v1)
        simpa [ladder, h1, h2] using htop _ hmem
      · simpa [ladder, h1, h2] using ih hrest

theorem fRef_mono {v1 v2 : Nat} (hle : v1 ≤ v2) : fRef v1 ≤ fRef v2 := ladder_le_ladder (by decide) hle

theorem fDec_mono {v1 v2 : Nat} (hle : v1 ≤ v2) : fDec v1 ≤ fDec v2 := ladder_le_ladder (by decide) hle

theorem log2_mono {n m : Nat} (hle : n ≤ m) : Nat.log2 n ≤ Nat.log2 m := by
  simpa only [Nat.log2_eq_log_two] using Nat.log_mono_right hle

/-- Settles O23: the results of both ladders fall from the top down, and the base-2 strategies give `log2`. -/
theorem resultsAreMonotone : Obligations.ResultsAreMonotone := by
  intro make hmake v1 v2 hv hle
  have hmake' : make ∈ [Instr.estRef] ++ [Instr.estTbb, Instr.estTub, Instr.estBmh, Instr.estBmc] ++ [Instr.estDec] :=
    hmake
  simp only [List.mem_append, List.mem_singleton] at hmake'
  obtain (rfl | hbase) | rfl := hmake'
  · exact ⟨_, _, if_pos hv, if_pos (hv.trans hle), fRef_mono hle⟩
  · exact ⟨_, _, contractResult_eq_log2 make hbase v1 hv, contractResult_eq_log2 make hbase v2 (hv.trans hle),
      Int.ofNat_le.mpr (log2_mono hle)⟩
  · exact ⟨_, _, rfl, rfl, fDec_mono hle⟩

end Sys2Proof.Machine

/-! ## EST.REF: thresholds and the real logarithm (spec/41_reference_float.md) -/

namespace Sys2Proof.Machine

/-! ### Powers of e between integers (R68) -/

/-- Fourteen decimals of `e`, enough to place every `e^k` of R68 strictly between two integers. -/
theorem exp_one_bounds : (271828182845904 / 10 ^ 14 : ℝ) < Real.exp 1 ∧ Real.exp 1 < 271828182845905 / 10 ^ 14 := by
  obtain ⟨hlo, hhi⟩ := abs_le.mp Real.exp_one_near_20
  constructor <;> linarith

theorem lt_exp_natCast {n k : ℕ} (h : n * (10 ^ 14) ^ k < 271828182845904 ^ k) : (n : ℝ) < Real.exp k := by
  have h' : (n : ℝ) * (10 ^ 14) ^ k < 271828182845904 ^ k := by exact_mod_cast h
  calc (n : ℝ) < (271828182845904 / 10 ^ 14) ^ k := by rwa [div_pow, lt_div_iff₀ (by positivity)]
    _ ≤ Real.exp 1 ^ k := pow_le_pow_left₀ (by positivity) exp_one_bounds.1.le k
    _ = Real.exp k := Real.exp_one_pow k

theorem exp_natCast_lt {n k : ℕ} (h : 271828182845905 ^ k < n * (10 ^ 14) ^ k) : Real.exp k < n := by
  have h' : (271828182845905 : ℝ) ^ k < n * (10 ^ 14) ^ k := by exact_mod_cast h
  calc Real.exp k = Real.exp 1 ^ k := (Real.exp_one_pow k).symm
    _ ≤ (271828182845905 / 10 ^ 14) ^ k := pow_le_pow_left₀ (Real.exp_pos 1).le exp_one_bounds.2.le k
    _ < n := by rwa [div_pow, div_lt_iff₀ (by positivity)]

/-- No 32-bit operand reaches `e^23`. -/
theorem operand_lt_exp_23 : (2 ^ 32 - 1 : ℝ) < Real.exp 23 := by
  have h : ((2 ^ 32 - 1 : ℕ) : ℝ) < Real.exp (23 : ℕ) := lt_exp_natCast (by decide)
  exact_mod_cast h

/-! ### The thresholds of the ladder -/

/-- The decimals of `e` place the power of each rung between its threshold and the integer before. -/
theorem referenceRungs_bracket : ∀ x ∈ referenceRungs,
    (x.1 - 1) * (10 ^ 14) ^ x.2.toNat < 271828182845904 ^ x.2.toNat ∧
    271828182845905 ^ x.2.toNat < x.1 * (10 ^ 14) ^ x.2.toNat := by decide

section

variable {t k v : ℕ} (h : (t, (k : ℤ)) ∈ referenceRungs)
include h

theorem exp_bounds_of_rung : ((t - 1 : ℕ) : ℝ) < Real.exp k ∧ Real.exp k < t :=
  have hb := referenceRungs_bracket _ h
  ⟨lt_exp_natCast hb.1, exp_natCast_lt hb.2⟩

theorem rung_threshold_pos : 1 < t := (referenceRungs_descends.operand _ h).1

theorem rung_threshold_eq : t = ⌊Real.exp k⌋₊ + 1 := by
  obtain ⟨hlo, hhi⟩ := exp_bounds_of_rung h
  have ht : t - 1 + 1 = t := Nat.sub_add_cancel (rung_threshold_pos h).le
  have hfloor : ⌊Real.exp k⌋₊ = t - 1 := (Nat.floor_eq_iff (Real.exp_pos _).le).mpr
    ⟨hlo.le, by exact_mod_cast ht.symm ▸ hhi⟩
  rw [hfloor, ht]

/-- Strictly between two integers there is none. -/
theorem exp_ne_intCast_of_rung (n : ℤ) : Real.exp k ≠ n := by
  intro hn
  obtain ⟨hlo, hhi⟩ := exp_bounds_of_rung h
  rw [hn] at hlo hhi
  have hlo' : ((t - 1 : ℕ) : ℤ) < n := by exact_mod_cast hlo
  have hhi' : n < t := by exact_mod_cast hhi
  omega

/-- An integer reaches the threshold exactly when it reaches the power of `e`. -/
theorem rung_threshold_le_iff_le_log (hv : 1 ≤ v) : t ≤ v ↔ (k : ℝ) ≤ Real.log v := by
  obtain ⟨hlo, hhi⟩ := exp_bounds_of_rung h
  rw [Real.le_log_iff_exp_le (Nat.cast_pos.mpr hv)]
  constructor
  · intro hle
    exact hhi.le.trans (Nat.cast_le.mpr hle)
  · intro hle
    have hlt : t - 1 < v := Nat.cast_lt.mp (hlo.trans_le hle)
    omega

end

/-- Where thresholds and results both fall from the top down, an operand reaches a rung's threshold exactly when the
ladder's answer reaches the rung's result. -/
theorem threshold_le_iff_le_ladder {rungs : List (Nat × Int)} {bottom : Int}
    (hthresholds : rungs.Pairwise fun x y => y.1 < x.1)
    (hresults : (rungs.map Prod.snd ++ [bottom]).Pairwise (· > ·)) {x : Nat × Int} (hx : x ∈ rungs) (v : Nat) :
    x.1 ≤ v ↔ x.2 ≤ ladder rungs bottom v := by
  induction rungs with
  | nil => simp at hx
  | cons y rungs ih =>
    obtain ⟨hy, hrest⟩ := List.pairwise_cons.mp hthresholds
    obtain ⟨htop, hfall⟩ := List.pairwise_cons.mp hresults
    by_cases hv : y.1 ≤ v
    · rw [show ladder (y :: rungs) bottom v = y.2 by simp [ladder, hv]]
      obtain rfl | hx := List.mem_cons.mp hx
      · exact iff_of_true hv le_rfl
      · have hres : x.2 < y.2 := htop _ (List.mem_append_left _ (List.mem_map_of_mem hx))
        exact iff_of_true ((hy x hx).le.trans hv) hres.le
    · rw [show ladder (y :: rungs) bottom v = ladder rungs bottom v by simp [ladder, hv]]
      obtain rfl | hx := List.mem_cons.mp hx
      · have hmem : ladder rungs bottom v ∈ rungs.map Prod.snd ++ [bottom] :=
          (List.perm_append_singleton _ _).mem_iff.mpr (ladder_mem rungs bottom v)
        exact iff_of_false hv (htop _ hmem).not_ge
      · exact ih hrest hfall hx

theorem rung_threshold_le_iff_le_fRef {t : ℕ} {k : ℤ} (h : (t, k) ∈ referenceRungs) (v : ℕ) : t ≤ v ↔ k ≤ fRef v :=
  threshold_le_iff_le_ladder referenceRungs_descends.pairwise (by decide) h v

/-! ### EST.REF is the integer part of the natural logarithm -/

theorem exists_rung {k : ℕ} (hpos : 1 ≤ k) (hle : k ≤ 22) : ∃ t, (t, (k : ℤ)) ∈ referenceRungs := by
  have hmem : (k : ℤ) ∈ 0 :: referenceRungs.map Prod.snd := (mem_referenceResults_iff _).mpr (by omega)
  have hne : k ≠ 0 := Nat.ne_of_gt hpos
  simpa [hne] using hmem

theorem log_operand_lt_23 {v : ℕ} (hpos : 1 ≤ v) (hlt : v < 2 ^ 32) : Real.log v < 23 := by
  rw [Real.log_lt_iff_lt_exp (Nat.cast_pos.mpr hpos)]
  have hle : (v : ℝ) ≤ ((2 ^ 32 - 1 : ℕ) : ℝ) := Nat.cast_le.mpr (Nat.le_sub_one_of_lt hlt)
  exact hle.trans_lt (by exact_mod_cast operand_lt_exp_23)

/-- The rungs decide this for `1` to `22`; below, both sides hold for every operand, and above, neither does. -/
theorem le_fRef_iff_le_log {v : ℕ} (hpos : 1 ≤ v) (hlt : v < 2 ^ 32) (k : ℤ) : k ≤ fRef v ↔ (k : ℝ) ≤ Real.log v := by
  obtain ⟨hlo, hhi⟩ := fRef_range v
  obtain hk | hk := le_or_gt k 0
  · have hk' : (k : ℝ) ≤ 0 := by exact_mod_cast hk
    exact iff_of_true (hk.trans hlo) (hk'.trans (Real.log_natCast_nonneg v))
  obtain ⟨n, rfl⟩ := Int.eq_ofNat_of_zero_le hk.le
  obtain hn | hn := le_or_gt n 22
  · obtain ⟨t, ht⟩ := exists_rung (by omega) hn
    exact (rung_threshold_le_iff_le_fRef ht v).symm.trans (rung_threshold_le_iff_le_log ht hpos)
  · have hn' : (23 : ℝ) ≤ (n : ℤ) := by exact_mod_cast hn
    exact iff_of_false (by omega) ((log_operand_lt_23 hpos hlt).trans_le hn').not_ge

theorem fRef_eq_floor_log {v : ℕ} (hpos : 1 ≤ v) (hlt : v < 2 ^ 32) : fRef v = ⌊Real.log v⌋ :=
  eq_of_forall_le_iff fun k => (le_fRef_iff_le_log hpos hlt k).trans Int.le_floor.symm

theorem contractResult_estRef {v : Word} (hv : 1 ≤ v.toNat) : contractResult (.estRef v) = some (fRef v.toNat) :=
  if_pos hv

/-! ### The table of R68 -/

/-- The thresholds `T_0` to `T_22`, in the order of R68's table. -/
def referenceThresholds : List Nat := 1 :: (referenceRungs.map Prod.fst).reverse

theorem referenceThresholds_length : referenceThresholds.length = 23 := by decide

theorem referenceThresholds_rung : ∀ k : ℕ, k < 23 → 1 ≤ k → ∀ t ∈ referenceThresholds[k]?,
    (t, (k : ℤ)) ∈ referenceRungs := by decide

theorem exists_referenceThreshold {k : ℕ} (hk : k ≤ 22) : ∃ t, referenceThresholds[k]? = some t :=
  ⟨_, List.getElem?_eq_getElem (by rw [referenceThresholds_length]; omega)⟩

/-- `T_0` is reached by every operand that has a logarithm, as 0 is by its logarithm. -/
theorem referenceThreshold_le_iff {v k t : ℕ} (hpos : 1 ≤ v) (hk : k ≤ 22) (ht : referenceThresholds[k]? = some t) :
    t ≤ v ↔ (k : ℤ) ≤ fRef v := by
  obtain rfl | hk0 := Nat.eq_zero_or_pos k
  · obtain rfl : 1 = t := Option.some.inj ht
    exact iff_of_true hpos (fRef_range v).1
  · exact rung_threshold_le_iff_le_fRef (referenceThresholds_rung k (by omega) hk0 t ht) v

/-- Settles O29: each threshold follows the power of `e` of its rung, and an operand reaches `T_k` exactly when
`k ≤ F_REF(v)`. -/
theorem referenceIsThresholdLadder : Obligations.ReferenceIsThresholdLadder := by
  refine ⟨referenceThresholds, rfl, fun k hpos hk => ?_, operand_lt_exp_23, fun k hpos hk n => ?_, fun v hv => ?_⟩
  · obtain ⟨t, ht⟩ := exists_referenceThreshold hk
    rw [ht, ← rung_threshold_eq (referenceThresholds_rung k (by omega) hpos t ht)]
  · obtain ⟨t, ht⟩ := exists_rung hpos hk
    exact exp_ne_intCast_of_rung ht n
  · obtain ⟨hlo, hhi⟩ := fRef_range v.toNat
    obtain ⟨k, hfRef⟩ := Int.eq_ofNat_of_zero_le hlo
    have hreach {j t : ℕ} (hj : j ≤ 22) (ht : referenceThresholds[j]? = some t) : t ≤ v.toNat ↔ j ≤ k := by
      rw [referenceThreshold_le_iff hv hj ht, hfRef, Int.ofNat_le]
    have hk : k ≤ 22 := by omega
    refine ⟨k, hk, hfRef ▸ contractResult_estRef hv, ?_, fun j hj hkj => ?_, fun j hj t ht => ?_⟩
    · obtain ⟨t, ht⟩ := exists_referenceThreshold hk
      exact ⟨t, ht, (hreach hk ht).mpr le_rfl⟩
    · obtain ⟨t, ht⟩ := exists_referenceThreshold hj
      exact ⟨t, ht, Nat.lt_of_not_le (mt (hreach hj ht).mp (Nat.not_le_of_lt hkj))⟩
    · exact (referenceThreshold_le_iff hv hj ht).trans (le_fRef_iff_le_log hv v.isLt j)

/-! ### The bracket by powers of e (R71) -/

theorem exp_fRef_bracket {v : ℕ} (hpos : 1 ≤ v) (hlt : v < 2 ^ 32) :
    Real.exp (fRef v) ≤ v ∧ (v : ℝ) < Real.exp (fRef v + 1) := by
  have hv : (0 : ℝ) < v := Nat.cast_pos.mpr hpos
  rw [← Real.le_log_iff_exp_le hv, ← Real.log_lt_iff_lt_exp hv, fRef_eq_floor_log hpos hlt]
  exact ⟨Int.floor_le _, Int.lt_floor_add_one _⟩

/-- Settles O30: the result is the integer part of `ln v`; the operand 2, whose result is 0, is not below `2^1`. -/
theorem referenceBracketsOperandByPowersOfE : Obligations.ReferenceBracketsOperandByPowersOfE := by
  refine ⟨fun v hv => ⟨_, contractResult_estRef hv, exp_fRef_bracket hv v.isLt⟩, by decide, by decide, by decide,
    by decide, by decide, fun hbracket => ?_, fun v1 v2 hv hle => ?_⟩
  · have htwo : (2 : Word).toNat < 2 ^ (0 + 1) := (hbracket 2 0 (by decide) (by decide)).2
    exact absurd htwo (by decide)
  · exact ⟨_, _, contractResult_estRef hv, contractResult_estRef (hv.trans hle), fRef_mono hle⟩

end Sys2Proof.Machine

/-! ## EST.TBB and EST.TUB: the table, and each strategy's result at 0 (spec/42_table_lookup.md) -/

namespace Sys2Proof.Machine

/-! ### LogTable256 (R72) -/

theorem rom_zero : rom 0 = -1 := by decide

/-- The entries by the index ranges of R72. -/
theorem rom_eq_of_range {k : Nat} {i : BitVec 8} (hlo : 2 ^ k ≤ i.toNat) (hhi : i.toNat < 2 ^ (k + 1)) :
    rom i = k := by
  have hpos : i.toNat ≠ 0 := ((Nat.two_pow_pos k).trans_le hlo).ne'
  have hlog : Nat.log2 i.toNat = k := (Nat.log2_eq_iff hpos).mpr ⟨hlo, hhi⟩
  rw [rom_eq_log2 i fun h => hpos (by simp [h]), hlog]

/-- Settles O31: an entry other than the sentinel is `Nat.log2` of its index, which is the floor of the real logarithm
and is `k` from `2^k` to `2^(k+1) - 1`. -/
theorem tableHoldsFloorLog2 : Obligations.TableHoldsFloorLog2 :=
  ⟨logTable256_length, rom_zero, fun i hi => (rom_eq_log2 i hi).trans (floor_logb_two_natCast _).symm,
    fun _ _ => rom_eq_of_range⟩

/-! ### Operands of 0 (R62, R74, R81) -/

/-- An operation with a fixed contract result executes in every state, and enters with the word of that result. -/
theorem exec_next_of_contractResult {i : Instr} {r : Int} {word : Word} (hr : contractResult i = some r)
    (hword : encodeResult r = word) (s : State) :
    ∃ t, exec i s = .next t ∧ t.inputs = s.inputs ∧ CycleEffect s t (some ⟨i.operand, word⟩) := by
  rw [exec_of_contractResult hr, hword]
  exact acceptOperation_next i.operand word s

/-- Settles O25: R48 fixes the results at 0, the sentinel for the table strategies and 0 for the others, and R47 their
words. -/
theorem zeroOperandResults : Obligations.ZeroOperandResults := by
  intro s
  obtain ⟨-, -, -, -, htbb, htub, hbmh, hbmc, hdec⟩ := resultRanges
  obtain ⟨-, hsentinel, hzero, -⟩ := resultEncodingIsTwosComplement
  exact ⟨exec_next_of_contractResult htbb hsentinel s, exec_next_of_contractResult htub hsentinel s,
    exec_next_of_contractResult hbmh hzero s, exec_next_of_contractResult hbmc hzero s,
    exec_next_of_contractResult hdec hzero s⟩

end Sys2Proof.Machine

/-! ## EST.DEC: floor(log10) (spec/45_decimal_ladder.md) -/

namespace Sys2Proof.Machine

/-- The rungs of R79 are the powers of 10 from `10^1` to `10^9`, each with its exponent. -/
theorem pow_ten_mem_decimalRungs : ∀ k : ℕ, k < 10 → k ≠ 0 → (10 ^ k, (k : ℤ)) ∈ decimalRungs := by decide

/-- The rungs decide this for `1` to `9`; `10^0` is reached by every operand from 1 on, and `10^10` by none. -/
theorem natCast_le_fDec_iff_pow_le {v : ℕ} (hpos : v ≠ 0) (hlt : v < 2 ^ 32) (k : ℕ) :
    (k : ℤ) ≤ fDec v ↔ 10 ^ k ≤ v := by
  obtain ⟨hlo, hhi⟩ := fDec_range v
  obtain hk | hk := lt_or_ge k 10
  · obtain rfl | hk0 := eq_or_ne k 0
    · exact iff_of_true hlo (Nat.one_le_iff_ne_zero.mpr hpos)
    · exact (threshold_le_iff_le_ladder decimalRungs_descends.pairwise (by decide)
        (pow_ten_mem_decimalRungs k hk hk0) v).symm
  · have hpow : 10 ^ 10 ≤ 10 ^ k := Nat.pow_le_pow_right (by decide) hk
    exact iff_of_false (by omega) (by omega)

/-- The ladder is the integer logarithm to base 10 (R80). -/
theorem fDec_eq_log {v : ℕ} (hpos : v ≠ 0) (hlt : v < 2 ^ 32) : fDec v = Nat.log 10 v := by
  obtain ⟨r, hr⟩ := Int.eq_ofNat_of_zero_le (fDec_range v).1
  have hiff (k : ℕ) : k ≤ r ↔ k ≤ Nat.log 10 v := by
    rw [← Int.ofNat_le, ← hr, natCast_le_fDec_iff_pow_le hpos hlt, Nat.le_log_iff_pow_le (by decide) hpos]
  rw [hr, eq_of_forall_le_iff hiff]

/-- Settles O36: the result is `Nat.log 10 v`, which brackets `v` by powers of 10, and the operation accepts it in every
state. -/
theorem decimalGivesFloorLog10 : Obligations.DecimalGivesFloorLog10 := by
  refine ⟨fun v s hv => ?_, by decide, by decide⟩
  have hpos : v.toNat ≠ 0 := Nat.ne_of_gt hv
  have hresult : contractResult (.estDec v) = some (Nat.log 10 v.toNat : ℤ) :=
    congrArg some (fDec_eq_log hpos v.isLt)
  obtain ⟨t, hnext, hinputs, heffect⟩ := exec_next_of_contractResult hresult rfl s
  exact ⟨Nat.log 10 v.toNat, t, hresult, hnext, hinputs, heffect, Nat.pow_log_le_self 10 hpos,
    Nat.lt_pow_succ_log_self (by decide) _⟩

end Sys2Proof.Machine

/-! ## Reset (spec/70_reset_and_hazards.md §1) -/

namespace Sys2Proof.Machine

/-! ### The silence after a reset edge -/

/-- A unit with nothing in flight shows no result until an operand it accepts is due: the cycles before `LATENCY` would
show what was in its slots, and each later cycle answers the operand of `LATENCY` cycles before (R26, R28). -/
theorem State.Built.silent_of_no_inFlight {t : State} (hb : t.Built) {k n : Nat}
    (hslots : t.inFlight = List.replicate k none) (hacc : ∀ m, m + t.latency ≤ n → ¬ t.AcceptsAt m) :
    ∃ o : Outputs, t.outputAt n = some o ∧ o.valid = false := by
  obtain hlt | hle := lt_or_ge n t.latency
  · obtain ⟨t', a, h⟩ := hb.exists_stepEffect
    obtain ⟨o, ho, hreset, hshows⟩ := h.outputAt_slot hb (Nat.le_of_lt hlt)
    have hslot : (t.inFlight ++ [a]).getD n none = none := by
      rw [List.getD_append _ _ _ _ hlt, hslots]
      simp
    rw [hslot] at hshows
    refine ⟨o, ho, ?_⟩
    by_cases hex : ∃ j < n, t.ResetsAt j
    · exact hreset hex
    · exact (hshows (by simpa using hex)).1 rfl
  · obtain ⟨m, rfl⟩ := Nat.exists_eq_add_of_le' hle
    obtain ⟨o, ho, hvalid, -⟩ := resultAppearsLatencyCyclesAfterAcceptance t m hb
    refine ⟨o, ho, ?_⟩
    rw [← Bool.not_eq_true, hvalid]
    exact fun hkept => hacc m le_rfl hkept.1

/-! ### No reset input with `LATENCY` 0 -/

theorem UnitState.resetting_of_latency_zero {u : UnitState} (h : u.latency = 0) : u.resetting = false := by
  simp [resetting, h]

/-- With `LATENCY` 0 a step is decided by the request word and `in_valid`: `rst` is not looked at (R24, R96). -/
theorem step_of_latency_zero {s : State} {i : Instr} (hlat : s.latency = 0)
    (hdec : decodeRequest (s.request s.strat) = .ok i) :
    step s = if s.currentInputs.inValid then exec i (s.advanceInputs.builtWith s.strat)
      else .next ((idleCycle s.advanceInputs).builtWith s.strat) := by
  rw [step_of_decoded hdec, UnitState.resetting_of_latency_zero hlat]
  rfl

/-- Settles O9: a reset edge leaves every slot empty, and from there nothing is shown until an operand accepted later is
due; with `LATENCY` 0 the step reads the same signals for either value of `rst`. -/
theorem resetDiscardsEverythingInFlight : Obligations.ResetDiscardsEverythingInFlight := by
  intro s c rest hb hin hrst
  refine ⟨fun hpos => ?_, fun hlat => ?_⟩
  · have hreset : s.ResetsAt 0 := ⟨hpos, by simpa [UnitState.inputAt, hin] using hrst⟩
    obtain ⟨t, a, h⟩ := hb.exists_stepEffect
    obtain rfl : a = none := h.takes.of_not_accepts fun hacc => hacc.2 hreset
    have hslots := h.inFlight_of_reset hreset
    have hdue : (s.inFlight ++ [none]).headD none = s.inFlight.headD none := by cases s.inFlight <;> rfl
    exact ⟨t, h.next, h.strat, h.inputs.trans (congrArg List.tail hin), hslots, hdue ▸ h.presents,
      fun n hacc => (hb.of_strat_eq h.strat).silent_of_no_inFlight hslots hacc⟩
  · obtain ⟨⟨_, inFlight, out, drawCount⟩, strat⟩ := s
    obtain rfl := hin
    obtain ⟨i, hdec, -, -⟩ := decodeRequest_of_legal hb c.inV
    exact (step_of_latency_zero hlat hdec).trans (step_of_latency_zero
      (s := ⟨⟨{ c with rst := false } :: rest, inFlight, out, drawCount⟩, strat⟩) hlat hdec).symm

end Sys2Proof.Machine

/-! ## Request words as numbers and as bytes (spec/30_encoding.md §1, §3) -/

namespace Sys2Proof

/-- Settles O2: the word is its two fields, and the codes are those of R49. -/
theorem requestWordIsStratTimesTwoPow32PlusOperand : Obligations.RequestWordIsStratTimesTwoPow32PlusOperand := by
  intro v
  exact ⟨(requestWord_toNat 0 v).trans (Nat.zero_add _), requestWord_toNat 1 v, requestWord_toNat 2 v,
    requestWord_toNat 3 v, requestWord_toNat 4 v, requestWord_toNat 5 v⟩

/-- Settles O4: each word is its code followed by its operand. -/
theorem programWordsDecode : Obligations.ProgramWordsDecode :=
  ⟨decodeRequest_requestWord 0 21, decodeRequest_requestWord 1 0x12345, decodeRequest_requestWord 2 0,
    decodeRequest_requestWord 3 0xF00000, decodeRequest_requestWord 4 0x10000, decodeRequest_requestWord 5 123456789⟩

theorem decodeRequest_encode (i : Instr) : decodeRequest (encode i) = .ok i := by
  rw [encode, decodeRequest_requestWord]
  cases i <;> rfl

/-- The decoder is the inverse of the encoder (R43, R50): a word that decodes has a legal code, and the operation has the
word's two fields. -/
theorem decodeRequest_eq_ok_iff {w : Request} {i : Instr} : decodeRequest w = .ok i ↔ encode i = w := by
  refine ⟨fun h => ?_, fun h => h ▸ decodeRequest_encode i⟩
  rw [← requestWord_fields w] at h ⊢
  cases hlegal : legalStrat (stratField w)
  · rw [decodeRequest_of_reserved hlegal] at h
    contradiction
  · obtain ⟨j, hj, hstrat, hoperand⟩ := decodeRequest_of_legal hlegal (operandField w)
    obtain rfl : j = i := Except.ok.inj (hj.symm.trans h)
    rw [encode, hstrat, hoperand]

/-! ### The five bytes of a request word (log 11) -/

theorem append_toNat {m n : Nat} (x : BitVec m) (y : BitVec n) : (x ++ y).toNat = x.toNat * 2 ^ n + y.toNat := by
  rw [BitVec.toNat_append, ← Nat.shiftLeft_add_eq_or_of_lt y.isLt, Nat.shiftLeft_eq]

/-- Every list of bytes is the layout of a number that fits in it. -/
theorem exists_bytesOf_eq (bytes : List Byte) :
    ∃ w < 256 ^ bytes.length, bytesOf bytes.length w = bytes := by
  induction bytes with
  | nil => exact ⟨0, Nat.one_pos, rfl⟩
  | cons b bytes ih =>
    obtain ⟨w, hlt, hw⟩ := ih
    have hb : b.toNat < 256 := b.isLt
    refine ⟨256 * w + b.toNat, ?_, ?_⟩
    · rw [List.length_cons, Nat.pow_succ]
      omega
    · have hbyte : BitVec.ofNat 8 (256 * w + b.toNat) = b := BitVec.eq_of_toNat_eq (by simp; omega)
      have hrest : (256 * w + b.toNat) / 256 = w := by omega
      simp only [List.length_cons, bytesOf, hbyte, hrest, hw]

/-- The decoder reads five bytes as the 35 low bits of the number laid out in them, and no bit above may be set (R45). -/
theorem decode_bytesOf_append (w : Nat) (rest : List Byte) : decode (bytesOf 5 w ++ rest) =
    if 8 ≤ w / 2 ^ 32 % 256 then .error .notARequestWord
    else (decodeRequest (BitVec.ofNat 35 w)).map fun i => (i, rest) := by
  have hword : (BitVec.ofNat 8 (w / 256 / 256 / 256 / 256)).setWidth 3 ++ (BitVec.ofNat 8 (w / 256 / 256 / 256) ++
      (BitVec.ofNat 8 (w / 256 / 256) ++ (BitVec.ofNat 8 (w / 256) ++ BitVec.ofNat 8 w))) = BitVec.ofNat 35 w := by
    apply BitVec.eq_of_toNat_eq
    simp only [append_toNat, BitVec.toNat_setWidth, BitVec.toNat_ofNat]
    omega
  have htop : (BitVec.ofNat 8 (w / 256 / 256 / 256 / 256)).toNat = w / 2 ^ 32 % 256 := by
    rw [BitVec.toNat_ofNat]
    omega
  rw [← hword, ← htop]
  rfl

/-- Five bytes decode exactly when they hold an operation's request word. -/
theorem decode_bytesOf_append_eq_ok_iff {w : Nat} {rest rest' : List Byte} {i : Instr} :
    decode (bytesOf 5 w ++ rest) = .ok (i, rest') ↔
      w / 2 ^ 32 % 256 < 8 ∧ encode i = BitVec.ofNat 35 w ∧ rest = rest' := by
  rw [decode_bytesOf_append, ← decodeRequest_eq_ok_iff]
  split
  next h => exact iff_of_false nofun fun hiff => Nat.not_lt_of_le h hiff.1
  next h =>
    rw [and_iff_right (Nat.lt_of_not_le h)]
    cases decodeRequest (BitVec.ofNat 35 w) <;> simp [Except.map]

theorem decode_of_length_lt_five {bytes : List Byte} (h : bytes.length < 5) : decode bytes = .error .truncated := by
  unfold decode
  split
  · simp at h
    omega
  · rfl

/-- Settles O3: five bytes are the layout of a number below `2^40`, which decodes to `i` only if it is `i`'s request
word. -/
theorem decodeAndEncodeAgree : Obligations.DecodeAndEncodeAgree := by
  refine ⟨fun i rest => ?_, fun bytes i rest h => ?_⟩
  · have hlt : (encode i).toNat < 2 ^ 35 := (encode i).isLt
    exact decode_bytesOf_append_eq_ok_iff.mpr ⟨by omega, by simp, rfl⟩
  · obtain hshort | hlong := Nat.lt_or_ge bytes.length 5
    · rw [decode_of_length_lt_five hshort] at h
      contradiction
    · obtain ⟨w, hlt, hw⟩ := exists_bytesOf_eq (bytes.take 5)
      rw [List.length_take_of_le hlong] at hlt hw
      rw [← List.take_append_drop 5 bytes, ← hw] at h ⊢
      obtain ⟨htop, hencode, rfl⟩ := decode_bytesOf_append_eq_ok_iff.mp h
      have hnat : (encode i).toNat = w := by
        rw [hencode, BitVec.toNat_ofNat]
        omega
      rw [encodeBytes, hnat]

/-- A word of the table, of 40 bits, decodes exactly when it is an operation's request word. -/
theorem decodeTableWord_eq_some_iff {w : Nat} {i : Instr} :
    decodeTableWord 40 w = some i ↔ w / 2 ^ 32 % 256 < 8 ∧ encode i = BitVec.ofNat 35 w := by
  have hfive : bytesOf (max 5 ((40 + 7) / 8)) w = bytesOf 5 w ++ [] := (List.append_nil _).symm
  unfold decodeTableWord
  rw [hfive]
  have hiff := decode_bytesOf_append_eq_ok_iff (w := w) (rest := []) (rest' := []) (i := i)
  cases hd : decode (bytesOf 5 w ++ []) with
  | error e =>
    rw [hd] at hiff
    simpa using hiff
  | ok p =>
    obtain ⟨j, rest⟩ := p
    obtain ⟨-, -, rfl⟩ := decode_bytesOf_append_eq_ok_iff.mp hd
    rw [hd] at hiff
    simpa using hiff

namespace Machine

/-! ### The step after a word is fetched (log 12) -/

/-- The state that serves the word is presented its operand in the coming cycle, without a reset, so its step executes
the word's operation (R25). -/
theorem step_presentRequest_encode (s : State) (i : Instr) :
    step (s.presentRequest (encode i)) = exec i (s.rebuiltAs i.strat) := by
  have hstrat : stratField (encode i) = i.strat := stratField_requestWord ..
  have hrequest : (s.presentRequest (encode i)).request (s.presentRequest (encode i)).strat = encode i := by
    rw [State.presentRequest_strat]
    exact requestWord_fields (encode i)
  have hdec : decodeRequest ((s.presentRequest (encode i)).request (s.presentRequest (encode i)).strat) = .ok i := by
    rw [hrequest, decodeRequest_encode]
  have hreset : (s.presentRequest (encode i)).resetting = false := Bool.and_false _
  have hvalid : (s.presentRequest (encode i)).currentInputs.inValid = true := rfl
  rw [step_of_decoded hdec, hreset, hvalid, State.presentRequest_strat, State.presentRequest_advanceInputs, hstrat]
  rfl

theorem State.drawCount_le_rebuiltAs (s : State) (c : StratCode) : s.drawCount ≤ (s.rebuiltAs c).drawCount := by
  unfold State.rebuiltAs
  split
  · exact Nat.le_refl _
  · exact Nat.le_succ _

/-- To serve another strategy is to build anew, as right after reset: the new `out_valid` is 0 (R29). -/
theorem State.rebuiltAs_valid_of_ne {s : State} {c : StratCode} (h : s.strat ≠ c) :
    (s.rebuiltAs c).out.valid = false := by
  simp [State.rebuiltAs, h]

/-- Settles O5: a table word that decodes is its operation's request word, and the next step executes that operation on
the state that serves it. -/
theorem fetchedTableWordRuns : Obligations.FetchedTableWordRuns := by
  refine ⟨fun code hcode v => ?_, fun s w i hw => ?_⟩
  · have hv : v.toNat < 2 ^ 32 := v.isLt
    have hnat : (BitVec.ofNat 3 code).toNat = code := by
      rw [BitVec.toNat_ofNat]
      omega
    have hlegal : legalStrat (BitVec.ofNat 3 code) = true := decide_eq_true (hnat.le.trans hcode)
    obtain ⟨i, hdec, hstrat, hoperand⟩ := decodeRequest_of_legal hlegal v
    refine ⟨i, decodeTableWord_eq_some_iff.mpr ⟨by omega, ?_⟩, hstrat ▸ hnat, hoperand⟩
    apply BitVec.eq_of_toNat_eq
    rw [decodeRequest_eq_ok_iff.mp hdec, requestWord_toNat, hnat, BitVec.toNat_ofNat]
    omega
  · obtain ⟨-, hencode⟩ := decodeTableWord_eq_some_iff.mp hw
    have hstep : step (s.withFetchWord 40 w) = exec i (s.rebuiltAs i.strat) := by
      rw [State.withFetchWord, ← hencode, step_presentRequest_encode]
    refine ⟨fun hsame => ?_, fun hother => ⟨_, hstep, s.rebuiltAs_strat _, s.rebuiltAs_latency _, s.rebuiltAs_inputs _,
      ?_, s.rebuiltAs_valid_of_ne hother.symm, s.drawCount_le_rebuiltAs _⟩⟩
    · rw [hstep, hsame, s.rebuiltAs_self]
    · rw [State.rebuiltAs_inFlight_of_ne hother.symm]
      simp

end Machine

end Sys2Proof

/-! ## What every operation does to every state (spec/40_operation_contract.md §1) -/

namespace Sys2Proof.Machine

/-! ### Executing an operation -/

/-- A cycle of a unit with the slots of a state has the cycle's effect on that state (R26, R56). -/
theorem CycleEffect.of_clockCycle {s : State} {u : UnitState} (h : u.inFlight = s.inFlight) (a : Option InFlight) :
    CycleEffect s ((clockCycle a u).builtWith s.strat) a where
  strat := rfl
  combinational hs := (clockCycle_effect a u s.strat).combinational (h.trans hs)
  pipelined due later hs := (clockCycle_effect a u s.strat).pipelined due later (h.trans hs)

/-- Every operation but `EST.REF 0` has a fixed result (R55, R70). -/
theorem exists_contractResult_or_estRef_zero (i : Instr) : (∃ r, contractResult i = some r) ∨ i = .estRef 0 := by
  cases i with
  | estRef v =>
    obtain hv | hv := Nat.eq_zero_or_pos v.toNat
    · exact .inr (congrArg Instr.estRef (BitVec.eq_of_toNat_eq hv))
    · exact .inl ⟨_, contractResult_estRef hv⟩
  | _ v => exact .inl ⟨_, rfl⟩

/-- `EST.REF 0` accepts the next free value as its result (R70). -/
theorem exec_estRef_zero (s : State) :
    exec (.estRef 0) s = acceptOperation 0 (Config.draw s.drawCount) (s.draw.2.builtWith s.strat) := rfl

/-- An operation takes a unit through one cycle that accepts its operand, after using a free value or none; the `STRAT`
beside the unit has no part in it (R21, R56). -/
theorem exec_builtWith (i : Instr) (u : UnitState) : ∃ (r : Word) (u' : UnitState), (u' = u ∨ u' = u.draw.2) ∧
    ∀ c, exec i (u.builtWith c) = .next ((clockCycle (some ⟨i.operand, r⟩) u').builtWith c) := by
  obtain ⟨r, hr⟩ | rfl := exists_contractResult_or_estRef_zero i
  · exact ⟨encodeResult r, u, .inl rfl, fun c => exec_of_contractResult hr (u.builtWith c)⟩
  · exact ⟨Config.draw u.drawCount, u.draw.2, .inr rfl, fun c => exec_estRef_zero (u.builtWith c)⟩

/-- Every operation has a next state, which one cycle's passing leads to (R56, R57). -/
theorem exec_next (i : Instr) (s : State) :
    ∃ t r, exec i s = .next t ∧ t.inputs = s.inputs ∧ CycleEffect s t (some ⟨i.operand, r⟩) := by
  obtain ⟨r, u, hexec, hinputs, hslots, -⟩ := exec_eq_clockCycle i s
  exact ⟨_, r, hexec, (clockCycle_inputs ..).trans hinputs, .of_clockCycle hslots _⟩

/-! ### Free values (log 6) -/

/-- `t` is the end of a cycle that found `n` free values used: the counter has not gone back, and if nothing is presented
`out_r` is a free value the cycle used (R27). -/
def UnitState.DrawsFrom (t : UnitState) (n : Nat) : Prop :=
  n ≤ t.drawCount ∧ (t.out.valid = false → ∃ k, n ≤ k ∧ k < t.drawCount ∧ t.out.r = Config.draw k)

theorem UnitState.DrawsFrom.of_le {t : UnitState} {m n : Nat} (h : t.DrawsFrom n) (hle : m ≤ n) : t.DrawsFrom m := by
  obtain ⟨hcount, hfree⟩ := h
  refine ⟨hle.trans hcount, fun hv => ?_⟩
  obtain ⟨k, hk, hlt, hr⟩ := hfree hv
  exact ⟨k, hle.trans hk, hlt, hr⟩

theorem present_drawsFrom (due : Option InFlight) (u : UnitState) : (present due u).DrawsFrom u.drawCount := by
  cases due with
  | some op => exact ⟨Nat.le_refl _, nofun⟩
  | none => exact ⟨Nat.le_succ _, fun _ => ⟨u.drawCount, Nat.le_refl _, Nat.lt_succ_self _, rfl⟩⟩

theorem clockCycle_drawsFrom (a : Option InFlight) (u : UnitState) : (clockCycle a u).DrawsFrom u.drawCount :=
  present_drawsFrom ..

theorem exec_drawsFrom {i : Instr} {s t : State} (h : exec i s = .next t) : t.DrawsFrom s.drawCount := by
  obtain ⟨r, u, hu, hexec⟩ := exec_builtWith i s.toUnitState
  obtain rfl := Host.Outcome.next.inj ((hexec s.strat).symm.trans h)
  obtain rfl | rfl := hu
  · exact clockCycle_drawsFrom ..
  · exact (clockCycle_drawsFrom _ _).of_le (Nat.le_succ _)

theorem step_drawsFrom {s t : State} (h : step s = .next t) : t.DrawsFrom s.drawCount := by
  obtain ⟨i, -, ⟨-, rfl⟩ | ⟨-, -, hexec⟩ | ⟨-, -, rfl⟩⟩ := step_cases h
  · exact clockCycle_drawsFrom none s.advanceInputs
  · exact exec_drawsFrom (s := s.advanceInputs.builtWith s.strat) hexec
  · exact clockCycle_drawsFrom none s.advanceInputs

/-- Settles O27: a cycle draws from the counter it finds; `EST.REF 0` draws its result first, so its cycle draws from
the next number on. -/
theorem freeValuesAreFresh : Obligations.FreeValuesAreFresh := by
  refine ⟨fun s t h => step_drawsFrom h, fun s => ?_⟩
  obtain ⟨hcount, hfree⟩ := clockCycle_drawsFrom (some ⟨0, Config.draw s.drawCount⟩) s.draw.2
  exact ⟨_, s.drawCount, exec_estRef_zero s, Nat.le_refl _, hcount, .of_clockCycle s.draw_inFlight _, hfree⟩

/-- Settles O19: an executed operation is one cycle of the unit. -/
theorem operationFrame : Obligations.OperationFrame := by
  intro i s t h
  obtain ⟨t', r, hexec, hinputs, heffect⟩ := exec_next i s
  obtain rfl := Host.Outcome.next.inj (hexec.symm.trans h)
  exact ⟨hinputs, (exec_drawsFrom h).1, r, heffect⟩

/-- Settles O20: an operation with a fixed result accepts it. -/
theorem operationDeliversContractResult : Obligations.OperationDeliversContractResult :=
  fun _ _ hr s => exec_next_of_contractResult hr rfl s

/-- Settles O28: the ladder is the floor of the logarithm, which is not negative from 1 on. -/
theorem referenceIsTruncatedNaturalLogarithm : Obligations.ReferenceIsTruncatedNaturalLogarithm := by
  refine fun v s => ⟨fun hv => ?_, fun _ => exec_next (.estRef v) s⟩
  refine exec_next_of_contractResult (contractResult_estRef hv) ?_ s
  rw [if_pos (Real.log_natCast_nonneg _), fRef_eq_floor_log hv v.isLt]

end Sys2Proof.Machine

/-! ## Steps: which have a next state, and what they keep (spec/10_state.md, spec/30_encoding.md §4) -/

namespace Sys2Proof.Machine

theorem step_of_reserved {s : State} (h : legalStrat s.strat = false) : step s = .refused .reservedStrat := by
  simp [step, stepUnit, UnitState.request, decodeRequest_of_reserved h]

theorem State.built_of_step {s t : State} (h : step s = .next t) : s.Built := by
  cases hlegal : legalStrat s.strat
  · rw [step_of_reserved hlegal] at h
    contradiction
  · exact hlegal

/-- Every step with a next state has the effect of one cycle. -/
theorem StepEffect.of_step {s t : State} (h : step s = .next t) : ∃ a, StepEffect s t a := by
  obtain ⟨t', a, heffect⟩ := (State.built_of_step h).exists_stepEffect
  obtain rfl := Host.Outcome.next.inj (heffect.next.symm.trans h)
  exact ⟨a, heffect⟩

/-- A step without a reset edge does what one cycle does. -/
theorem StepEffect.cycleEffect {s t : State} {a : Option InFlight} (h : StepEffect s t a) (hr : ¬ s.ResetsAt 0) :
    CycleEffect s t a where
  strat := h.strat
  combinational hs := by simpa [hs] using And.intro (h.inFlight_of_not_reset hr) h.presents
  pipelined due later hs := by simpa [hs] using And.intro (h.inFlight_of_not_reset hr) h.presents

/-- Settles O18: the build alone decides whether a step is refused. -/
theorem onlyReservedStratIsRefused : Obligations.OnlyReservedStratIsRefused := by
  refine fun s => ⟨fun h => step_of_reserved (decide_eq_false (Nat.not_le_of_lt h)), fun h => ?_, nofun⟩
  obtain ⟨t, a, heffect⟩ := State.Built.exists_stepEffect (s := s) (decide_eq_true h)
  exact ⟨t, heffect.next⟩

/-- Settles O17: a step has the effect of one cycle, and an executed operation is one cycle of the unit. -/
theorem stratAndLatencyNeverChange : Obligations.StratAndLatencyNeverChange := by
  refine ⟨fun s t h => ?_, fun i s t h => ?_⟩
  · obtain ⟨a, heffect⟩ := StepEffect.of_step h
    exact ⟨heffect.strat, heffect.latency⟩
  · obtain ⟨r, u, hexec, -, hslots, -⟩ := exec_eq_clockCycle i s
    obtain rfl := Host.Outcome.next.inj (hexec.symm.trans h)
    exact ⟨rfl, (clockCycle_latency ..).trans (congrArg List.length hslots)⟩

/-- A step is the unit's step relation at the state's own `STRAT`, which stands beside the unit's next state (R21). -/
theorem step_eq_next_iff {s t : State} :
    step s = .next t ↔ ∃ v, stepUnit s.strat s.toUnitState = .next v ∧ t = v.builtWith s.strat := by
  cases hu : stepUnit s.strat s.toUnitState <;> simp [step, hu, eq_comm]

/-- Settles O38: a step is `stepUnit` at the state's own `STRAT`, and an operation's cycle is the same beside every
`STRAT`. -/
theorem stratIsParameterOfStepRelation : Obligations.StratIsParameterOfStepRelation := by
  intro strat u
  refine ⟨fun v => ⟨fun h => step_eq_next_iff.mpr ⟨v, h, rfl⟩, fun h => ?_⟩, fun t h => ?_, fun i => ?_⟩
  · obtain ⟨v', hstep, heq⟩ := step_eq_next_iff.mp h
    obtain rfl : v = v' := congrArg State.toUnitState heq
    exact hstep
  · obtain ⟨v, hstep, heq⟩ := step_eq_next_iff.mp h
    exact ⟨v, heq, hstep⟩
  · obtain ⟨r, u', -, hexec⟩ := exec_builtWith i u
    exact ⟨_, hexec⟩

/-- Settles O7: the presented operand is the one the request word has, and the edge is no reset edge. -/
theorem stepRunsDecodedOperation : Obligations.StepRunsDecodedOperation := by
  intro s c rest i hin hvalid hrst hdec
  obtain ⟨⟨_, inFlight, out, drawCount⟩, strat⟩ := s
  obtain rfl := hin
  have hreset : UnitState.resetting ⟨c :: rest, inFlight, out, drawCount⟩ = false := by
    simpa [UnitState.resetting, UnitState.currentInputs] using hrst
  rw [step_of_decoded hdec, hreset, show UnitState.currentInputs ⟨c :: rest, inFlight, out, drawCount⟩ = c from rfl,
    hvalid]
  rfl

/-- Settles O8: without an operand the cycle accepts nothing. -/
theorem idleCycleAcceptsNothing : Obligations.IdleCycleAcceptsNothing := by
  intro s hb hidle hr
  obtain ⟨t, a, h⟩ := hb.exists_stepEffect
  obtain rfl : a = none := h.takes.of_not_accepts fun ⟨hvalid, _⟩ => by simp [hidle] at hvalid
  exact ⟨t, h.next, h.inputs, h.cycleEffect hr⟩

/-- Settles O14: with no slots the operation accepted is the one presented. -/
theorem combinationalInstanceAnswersAtOnce : Obligations.CombinationalInstanceAnswersAtOnce := by
  intro s hb hlat
  obtain ⟨t, a, h⟩ := hb.exists_stepEffect
  have hr : ¬ s.ResetsAt 0 := fun hr => hr.1.ne' hlat
  obtain ⟨hslots, hnone, hsome⟩ := (h.cycleEffect hr).combinational (List.eq_nil_of_length_eq_zero hlat)
  refine ⟨t, h.next, h.inputs, hslots, ?_⟩
  cases hvalid : (s.inputAt 0).inValid with
  | false =>
    have hout := hnone (h.takes.of_not_accepts fun ⟨hacc, _⟩ => by simp [hvalid] at hacc)
    exact ⟨hout, by simp [hout]⟩
  | true =>
    obtain ⟨r, ha, hanswer⟩ := h.takes.of_accepts ⟨hvalid, hr⟩
    rw [hsome _ ha]
    exact ⟨rfl, fun _ => hanswer⟩

/-! ### Soundness (R51, R54, R56) -/

/-- Settles O10: these are the fields of a new build. -/
theorem stateAfterReset : Obligations.StateAfterReset :=
  ⟨fun strat latency => ⟨rfl, List.length_replicate, by simp, rfl⟩, rfl, rfl⟩

theorem State.built_sound {strat : StratCode} (h : legalStrat strat = true) (latency : Nat) :
    (State.built strat latency).Sound where
  built := h
  inFlight := by simp
  presented := by simp

/-- Settles O16: nothing is in flight and nothing presented. -/
theorem resetIsSound : Obligations.ResetIsSound :=
  ⟨fun _ latency h => State.built_sound h latency, State.built_sound rfl Config.resetLatency⟩

/-- What a cycle takes in is an operation with a result of its own operand (R54). -/
theorem State.Takes.answers {s : State} {a : Option InFlight} (h : s.Takes a) {op : InFlight} (ha : a = some op) :
    MayAnswer s.strat op.operand op.result := by
  by_cases hacc : s.AcceptsAt 0
  · obtain ⟨r, hr, hanswer⟩ := h.of_accepts hacc
    obtain rfl := Option.some.inj (hr.symm.trans ha)
    exact hanswer
  · exact absurd ((h.of_not_accepts hacc).symm.trans ha) nofun

/-- In a sound state the slots hold results of their own operands, with the operation just taken in too. -/
theorem State.Sound.answers {s : State} {a : Option InFlight} (hs : s.Sound) (h : s.Takes a) {op : InFlight}
    (hop : some op ∈ s.inFlight ++ [a]) : MayAnswer s.strat op.operand op.result := by
  obtain hop | hop := List.mem_append.mp hop
  · exact hs.inFlight op hop
  · exact h.answers (List.mem_singleton.mp hop).symm

theorem mem_of_headD_eq_some {slots : List (Option InFlight)} {op : InFlight} (h : slots.headD none = some op) :
    some op ∈ slots := by
  cases slots with
  | nil => contradiction
  | cons slot slots => exact List.mem_cons.mpr (.inl h.symm)

/-- Settles O15: after a step the slots and the outputs hold what the slots held and the cycle took in. -/
theorem stepKeepsSound : Obligations.StepKeepsSound := by
  intro s t hs hstep
  obtain ⟨a, h⟩ := StepEffect.of_step hstep
  refine ⟨hs.built.of_strat_eq h.strat, fun op hop => ?_, fun hvalid => ?_⟩
  · rw [h.strat]
    by_cases hr : s.ResetsAt 0
    · rw [h.inFlight_of_reset hr] at hop
      simp at hop
    · rw [h.inFlight_of_not_reset hr] at hop
      exact hs.answers h.takes (List.mem_of_mem_tail hop)
  · obtain ⟨hnone, hsome⟩ := h.presents
    cases hdue : (s.inFlight ++ [a]).headD none with
    | none => simp [hnone hdue] at hvalid
    | some op =>
      rw [h.strat, hsome op hdue]
      exact ⟨op.operand, hs.answers h.takes (mem_of_headD_eq_some hdue)⟩

end Sys2Proof.Machine

/-! ## What a run delivers: order and history (spec/10_state.md §4, spec/70_reset_and_hazards.md §3) -/

namespace Sys2Proof.Machine

/-- Settles O12: the operation in slot `n` is the one due in cycle `n`. -/
theorem inFlightOperationAppearsWhenDue : Obligations.InFlightOperationAppearsWhenDue := by
  intro s n hb hn
  obtain ⟨t, a, h⟩ := hb.exists_stepEffect
  obtain ⟨o, ho, hreset, hshows⟩ := h.outputAt_slot hb hn.le
  rw [List.getD_append _ _ _ _ hn, List.getD_eq_getElem?_getD, List.getElem?_eq_getElem hn, Option.getD_some] at hshows
  refine ⟨o, ho, ?_⟩
  rw [List.getElem?_eq_getElem hn]
  by_cases hex : ∃ j < n, s.ResetsAt j
  · have hvalid := hreset hex
    obtain ⟨j, hj, hr⟩ := hex
    exact ⟨iff_of_false (by simp [hvalid]) fun hall => hall.2 j hj hr, by simp [hvalid]⟩
  · have hno : ∀ j < n, ¬ s.ResetsAt j := by simpa using hex
    obtain ⟨hnone, hsome⟩ := hshows hno
    cases hslot : s.inFlight[n] with
    | none => simp [hnone hslot]
    | some op => simpa [hsome op hslot] using hno

/-- The operand presented in cycle `n`, if there is one; it is accepted unless the edge is a reset edge (R25). -/
def UnitState.operandAt (u : UnitState) (n : Nat) : Option Word :=
  if (u.inputAt n).inValid then some (u.inputAt n).inV else none

/-- The result shown in cycle `n`, if there is one (R26). -/
def State.resultAt (s : State) (n : Nat) : Option Word :=
  (s.outputAt n).bind fun o => if o.valid then some o.r else none

/-- With no reset edge to come, cycle `n + LATENCY` answers the operand presented in cycle `n` (R26). -/
theorem State.Built.operandAt_rel_resultAt {s : State} (hb : s.Built) (hno : ∀ n, ¬ s.ResetsAt n) (n : Nat) :
    Option.Rel (MayAnswer s.strat) (s.operandAt n) (s.resultAt (s.latency + n)) := by
  obtain ⟨o, ho, hvalid, hanswer⟩ := resultAppearsLatencyCyclesAfterAcceptance s n hb
  rw [State.resultAt, Nat.add_comm, ho, Option.bind_some, UnitState.operandAt]
  have hiff : o.valid = true ↔ (s.inputAt n).inValid = true := by simpa [UnitState.AcceptsAt, hno] using hvalid
  by_cases hv : o.valid = true
  · rw [if_pos hv, if_pos (hiff.mp hv)]
    exact .some (hanswer hv)
  · rw [if_neg hv, if_neg (mt hiff.mpr hv)]
    exact .none

/-- With nothing in flight, the first `LATENCY` cycles show no result (R26, R28). -/
theorem State.Built.resultAt_eq_none {s : State} (hb : s.Built) (hempty : ∀ op, some op ∉ s.inFlight) {n : Nat}
    (hn : n < s.latency) : s.resultAt n = none := by
  have hslots : s.inFlight = List.replicate s.latency none :=
    List.eq_replicate_iff.mpr ⟨rfl, fun slot hslot => Option.eq_none_iff_forall_ne_some.mpr fun op hop =>
      hempty op (hop ▸ hslot)⟩
  obtain ⟨o, ho, hvalid⟩ := hb.silent_of_no_inFlight (n := n) hslots fun m hm => by omega
  simp [State.resultAt, ho, hvalid]

/-- Settles O13: the first `LATENCY` cycles show nothing, and after them each cycle answers the one `LATENCY` before. -/
theorem resultsComeInAcceptanceOrder : Obligations.ResultsComeInAcceptanceOrder := by
  intro s N hb hempty hno
  change List.Forall₂ _ ((List.range N).filterMap s.operandAt) ((List.range (N + s.latency)).filterMap s.resultAt)
  have hsilent : (List.range s.latency).filterMap s.resultAt = [] :=
    List.filterMap_eq_nil_iff.mpr fun n hn => hb.resultAt_eq_none hempty (List.mem_range.mp hn)
  rw [Nat.add_comm, List.range_add, List.filterMap_append, hsilent, List.nil_append, List.filterMap_map]
  refine List.rel_filterMap (R := Eq) ?_ (List.forall₂_same.mpr fun _ _ => rfl)
  rintro n _ rfl
  exact hb.operandAt_rel_resultAt hno n

/-! ### History (R15, R55, R63) -/

/-- A strategy other than EST.REF fixes the answer to every operand, and EST.REF to every operand but zero. -/
theorem MayAnswer.eq {strat : StratCode} {v r1 r2 : Word} (hlegal : legalStrat strat = true)
    (hfixed : strat ≠ 0 ∨ v ≠ 0) (h1 : MayAnswer strat v r1) (h2 : MayAnswer strat v r2) : r1 = r2 := by
  obtain ⟨i, hdec, rfl, rfl⟩ := decodeRequest_of_legal hlegal v
  obtain ⟨r, hr⟩ | rfl := exists_contractResult_or_estRef_zero i
  · rw [h1 i hdec r hr, h2 i hdec r hr]
  · exact absurd hfixed (by simp [Instr.strat, Instr.operand])

/-- A requester that avoids zero presents no zero operand in any cycle (R63). -/
theorem AvoidsZero.inputAt {u : UnitState} (h : AvoidsZero u.inputs) {n : Nat}
    (hvalid : (u.inputAt n).inValid = true) : (u.inputAt n).inV ≠ 0 := by
  obtain hn | hn := Nat.lt_or_ge n u.inputs.length
  · have hmem : u.inputAt n ∈ u.inputs := by
      rw [UnitState.inputAt, List.getD_eq_getElem _ _ hn]
      exact List.getElem_mem hn
    exact h _ hmem hvalid
  · rw [UnitState.inputAt, List.getD_eq_default _ _ hn] at hvalid
    exact absurd hvalid (by decide)

/-- Settles O26: from cycle `LATENCY` on both states answer the same operand, if it is accepted, and the strategy fixes
the answer. -/
theorem resultsDoNotDependOnHistory : Obligations.ResultsDoNotDependOnHistory := by
  intro s1 s2 hb hstrat hlat hinputs hfixed n hn
  obtain ⟨m, rfl⟩ := Nat.exists_eq_add_of_le' hn
  have hin (k : Nat) : s2.inputAt k = s1.inputAt k := by rw [UnitState.inputAt, ← hinputs]; rfl
  obtain ⟨o1, ho1, hvalid1, hanswer1⟩ := resultAppearsLatencyCyclesAfterAcceptance s1 m hb
  obtain ⟨o2, ho2, hvalid2, hanswer2⟩ := resultAppearsLatencyCyclesAfterAcceptance s2 m (hb.of_strat_eq hstrat.symm)
  simp only [UnitState.AcceptsAt, UnitState.ResetsAt, hin, ← hlat] at hvalid2
  rw [← hlat] at ho2
  rw [← hstrat, hin] at hanswer2
  have hvalid : o1.valid = o2.valid := Bool.eq_iff_iff.mpr (hvalid1.trans hvalid2.symm)
  refine ⟨o1, o2, ho1, ho2, hvalid, fun hv => ?_⟩
  have haccepted : (s1.inputAt m).inValid = true := (hvalid1.mp hv).1.1
  exact (hanswer1 hv).eq hb (hfixed.imp_right fun h => h.inputAt haccepted) (hanswer2 (hvalid ▸ hv))

end Sys2Proof.Machine

/-! ## Platforms (spec/60_exceptions.md §5) -/

namespace Sys2Proof.Machine

theorem Platform.stepAt_of_step {p : Platform} {k : Nat} {s t : State} (hk : p[k]? = some s)
    (h : step s = .next t) : p.stepAt k = .next (p.set k t) := by
  simp [Platform.stepAt, hk, h]

/-- Settles O37: a cycle of one member of the platform replaces that member only, and replacements at two places commute. -/
theorem platformInstancesAreIndependent : Obligations.PlatformInstancesAreIndependent := by
  intro p j k sj sk hne hj hk hbj hbk
  obtain ⟨tj, _, hstepj⟩ := hbj.exists_stepEffect
  obtain ⟨tk, _, hstepk⟩ := hbk.exists_stepEffect
  have hk' : (p.set j tj)[k]? = some sk := (List.getElem?_set_ne hne).trans hk
  have hj' : (p.set k tk)[j]? = some sj := (List.getElem?_set_ne hne.symm).trans hj
  refine ⟨_, _, (p.set j tj).set k tk, Platform.stepAt_of_step hj hstepj.next,
    Platform.stepAt_of_step hk' hstepk.next, Platform.stepAt_of_step hk hstepk.next, ?_, fun i hij hik => ?_⟩
  · rw [Platform.stepAt_of_step hj' hstepj.next, List.set_comm _ _ hne]
  · rw [List.getElem?_set_ne hik.symm, List.getElem?_set_ne hij.symm]

end Sys2Proof.Machine

/-! ## EST.TBB and EST.TUB: which byte is read (spec/42_table_lookup.md §2, §3) -/

namespace Sys2Proof.Machine

/-- Where nothing is left above a byte, what is left from it on is the byte. -/
theorem shiftRight_lt_256 {v n : Nat} (h : v >>> (n + 8) = 0) : v >>> n < 256 := by
  rw [Nat.shiftRight_add, Nat.shiftRight_eq_div_pow (v >>> n)] at h
  omega

theorem ofNat_eight_eq_zero_iff {n : Nat} (h : n < 256) : BitVec.ofNat 8 n = 0 ↔ n = 0 := by
  refine ⟨fun h0 => ?_, fun h0 => h0 ▸ rfl⟩
  have hmod : n % 256 = 0 := congrArg BitVec.toNat h0
  omega

/-- Each test of R75 is on a value that is one byte, for the tests before it found nothing above. -/
theorem fTub_eq_highest_nonzero_byte (v : Word) : fTub v.toNat =
    if v.extractLsb 31 24 ≠ 0 then 24 + rom (v.extractLsb 31 24)
    else if v.extractLsb 23 16 ≠ 0 then 16 + rom (v.extractLsb 23 16)
    else if v.extractLsb 15 8 ≠ 0 then 8 + rom (v.extractLsb 15 8)
    else rom (v.extractLsb 7 0) := by
  have hbyte {n : Nat} (h : v.toNat >>> (n + 8) = 0) : v.extractLsb' n 8 = 0 ↔ v.toNat >>> n = 0 :=
    ofNat_eight_eq_zero_iff (shiftRight_lt_256 h)
  have h31 : v.extractLsb 31 24 = 0 ↔ v.toNat >>> 24 = 0 := hbyte (Nat.shiftRight_eq_zero _ 32 v.isLt)
  unfold fTub tubLookup
  split
  next h24 =>
    rw [if_pos (mt h31.mp h24)]
    rfl
  next h24 =>
    have h23 : v.extractLsb 23 16 = 0 ↔ v.toNat >>> 16 = 0 := hbyte (not_not.mp h24)
    rw [if_neg (mt (mt h31.mpr) h24)]
    split
    next h16 =>
      rw [if_pos (mt h23.mp h16)]
      rfl
    next h16 =>
      have h15 : v.extractLsb 15 8 = 0 ↔ v.toNat >>> 8 = 0 := hbyte (not_not.mp h16)
      rw [if_neg (mt (mt h23.mpr) h16)]
      split
      next h8 =>
        rw [if_pos (mt h15.mp h8)]
        rfl
      next h8 =>
        rw [if_neg (mt (mt h15.mpr) h8)]
        exact Int.zero_add _

/-- Settles O32: both strategies make the reads of the chain of tests. -/
theorem tableStrategiesReadHighestNonzeroByte : Obligations.TableStrategiesReadHighestNonzeroByte := by
  intro make hmake v s
  have hresult : contractResult (make v) = some (fTub v.toNat) := by
    simp only [List.mem_cons, List.not_mem_nil, or_false] at hmake
    obtain rfl | rfl := hmake
    · exact congrArg some (fTbb_eq_fTub _)
    · rfl
  have hoperand : (make v).operand = v :=
    instrOperand_baseTwo make (List.mem_append_left [Instr.estBmh, Instr.estBmc] hmake) v
  have h := exec_next_of_contractResult hresult (congrArg encodeResult (fTub_eq_highest_nonzero_byte v)) s
  rwa [hoperand] at h

/-- Settles O33: a read with nothing left above its byte has an index of one byte, and reads index 0 only after the tests
on all other bytes found nothing. -/
theorem tableIndexIsInRange : Obligations.TableIndexIsInRange := by
  intro v hv l hl
  obtain rfl : l = tubLookup v := hl.elim (fun h => h.trans (tbbLookup_eq_tubLookup v)) id
  have hindex {n : Nat} (h : v >>> (n + 8) = 0) : v >>> n ≤ 255 := Nat.le_of_lt_succ (shiftRight_lt_256 h)
  unfold tubLookup
  split
  next h24 => exact ⟨hindex (Nat.shiftRight_eq_zero v 32 hv), fun h0 => absurd h0 h24⟩
  next h24 =>
    split
    next h16 => exact ⟨hindex (not_not.mp h24), fun h0 => absurd h0 h16⟩
    next h16 =>
      split
      next h8 => exact ⟨hindex (not_not.mp h16), fun h0 => absurd h0 h8⟩
      next h8 => exact ⟨hindex (n := 0) (not_not.mp h8), fun h0 => ⟨rfl, h0⟩⟩

end Sys2Proof.Machine

/-! ## EST.BMH and EST.BMC: the stages (spec/43_bitmask_halving.md, spec/44_comparison_cascade.md) -/

namespace Sys2Proof.Machine

/-- The shift taken is at most the place of the highest bit of `v`, so from `v ≥ 1` on that bit remains. -/
theorem Narrowed.value_pos {v k : Nat} {x : Nat × Nat} (h : Narrowed v k x) (hv : 1 ≤ v) : 1 ≤ x.1 := by
  rw [h.value_eq, Nat.shiftRight_eq_div_pow, Nat.one_le_div_iff (Nat.two_pow_pos _)]
  exact (Nat.pow_le_pow_right Nat.two_pos h.acc_le).trans (Nat.log2_self_le (Nat.ne_of_gt hv))

/-- A stage of R76 that adds the shift to the accumulator instead of ORing it in (R64). -/
def halvingStageAdd (x : Nat × Nat) (stage : Nat × Nat) : Nat × Nat :=
  if x.1 &&& stage.1 ≠ 0 then (x.1 >>> stage.2, x.2 + stage.2) else x

theorem Narrowed.halvingStageAdd_eq {v k : Nat} {x : Nat × Nat} (h : Narrowed v (k + 1) x) (mask : Nat) :
    halvingStageAdd x (mask, 2 ^ k) = Machine.halvingStage x (mask, 2 ^ k) := by
  simp only [halvingStageAdd, Machine.halvingStage, or_two_pow_eq_add h.dvd_acc]

/-- The stage of R76 that tries the shift by `2 ^ k`. -/
def shiftStage (k : Nat) : Nat × Nat := (2 ^ 2 ^ (k + 1) - 2 ^ 2 ^ k, 2 ^ k)

theorem halvingStages_eq_map_shiftStage : halvingStages = (List.range 5).reverse.map shiftStage := by decide

theorem Narrowed.foldl_halvingStageAdd {v k : Nat} {x : Nat × Nat} (h : Narrowed v k x) :
    ((List.range k).reverse.map shiftStage).foldl halvingStageAdd x =
      ((List.range k).reverse.map shiftStage).foldl Machine.halvingStage x := by
  induction k generalizing x with
  | zero => rfl
  | succ k ih =>
    simp only [List.range_succ, List.reverse_append, List.reverse_singleton, List.singleton_append, List.map_cons,
      List.foldl_cons]
    rw [shiftStage, h.halvingStageAdd_eq, ih h.halvingStage]

/-- Settles O34: with no shift left to try what remains is below 2, and each stage ORs in a shift below every bit the
accumulator can have. -/
theorem halvingShiftsOperandToOne : Obligations.HalvingShiftsOperandToOne := by
  intro v hv
  have h := halvingStages_narrowed hv
  refine ⟨h.value_eq, fun hpos => Nat.le_antisymm (Nat.le_of_lt_succ h.value_lt) (h.value_pos hpos), ?_⟩
  rw [halvingStages_eq_map_shiftStage]
  exact congrArg Prod.snd (narrowed_start hv).foldl_halvingStageAdd.symm

/-- Settles O35: what remains has one bit or two, so its highest bit is the last bit of `log2 v`; the accumulator, which
is even, is the rest. -/
theorem cascadeNeedsFinalStage : Obligations.CascadeNeedsFinalStage := by
  intro v hv hlt
  have h := cascadeCompare_narrowed hlt
  have hpos := h.value_pos hv
  have hle : (cascadeCompare v).1 ≤ 3 := Nat.le_of_lt_succ h.value_lt
  have heven : 2 ∣ (cascadeCompare v).2 := h.dvd_acc
  have hlog : Nat.log2 (cascadeCompare v).1 + (cascadeCompare v).2 = Nat.log2 v := by
    rw [h.value_eq] at hpos ⊢
    exact log2_shiftRight_add (Nat.ne_of_gt hpos)
  have hlast : Nat.log2 (cascadeCompare v).1 < 2 := (Nat.log2_lt (Nat.ne_of_gt hpos)).mpr h.value_lt
  exact ⟨hpos, hle, ⟨by omega, by omega⟩, fBmc_eq_log2 hlt⟩

end Sys2Proof.Machine
